-- ==== Sys2Proof/Word.lean ====
section
/-! DEFINITION. The word types of the block: bytes, 32-bit words, byte strings (00_scope.md R6, R8, R9).
Every value is unsigned (R13). -/

namespace Sys2Proof

/-- An unsigned 8-bit value; bit 7 is the most significant (00_scope.md R8). -/
abbrev Byte := BitVec 8

/-- A 32-bit register or bus value, `XLEN = 32` (00_scope.md R6). -/
abbrev Word := BitVec 32

/-- A byte string: byte 0 comes first (00_scope.md R9). -/
abbrev Bytes := List Byte

/-- A byte offset in the 512-byte register window, `ALEN = 9` (00_scope.md R6, 20_memory.md R51). -/
abbrev Offset := BitVec 9

end Sys2Proof
end

