-- ==== Sys2Proof/Machine/ByteOrder.lean ====
section
/-! DEFINITION. The big-endian helpers of 00_scope.md R10 and the zero padding that several rules use. -/

namespace Sys2Proof.Machine

/-- `BE32(b0,b1,b2,b3) = b0<<24 | b1<<16 | b2<<8 | b3` (00_scope.md R10). -/
def be32 (b0 b1 b2 b3 : Byte) : Word :=
  (b0.setWidth 32 <<< 24) ||| (b1.setWidth 32 <<< 16) ||| (b2.setWidth 32 <<< 8) ||| b3.setWidth 32

/-- `BE32bytes(w)`: `w[31:24], w[23:16], w[15:8], w[7:0]` (00_scope.md R10). -/
def be32bytes (w : Word) : Bytes :=
  [w.extractLsb' 24 8, w.extractLsb' 16 8, w.extractLsb' 8 8, w.extractLsb' 0 8]

/-- `BE64bytes(v)`: byte i is `(v >> (8*(7-i))) AND 0xFF` (00_scope.md R10). -/
def be64bytes (v : Nat) : Bytes :=
  (List.range 8).map fun i => BitVec.ofNat 8 (v >>> (8 * (7 - i)))

/-- `zeros(n)` (00_scope.md R9). -/
def zeros (n : Nat) : Bytes := List.replicate n 0x00

/-- The n bytes that are `(i < len(s)) ? s[i] : 0x00` for i = 0 .. n-1, as the commits of 41_base32.md R95 and
42_timestep.md R111 write them. -/
def padTo (n : Nat) (s : Bytes) : Bytes :=
  (List.range n).map fun i => s.getD i 0x00

/-- `BE32(s[4w], s[4w+1], s[4w+2], s[4w+3])`, bytes past the end taken as 0x00: the word w of a byte string
(10_state.md R30, 30_encoding.md R86). -/
def wordAt (s : Bytes) (w : Nat) : Word :=
  be32 (s.getD (4 * w) 0) (s.getD (4 * w + 1) 0) (s.getD (4 * w + 2) 0) (s.getD (4 * w + 3) 0)

end Sys2Proof.Machine
end

