-- ==== Sys2Proof/Config.lean ====
section
/-! DEFINITION. The block's parameters (00_scope.md R6) and where its byte buffers stand in the window
(10_state.md R22). One parameter is open: BASE, of which nothing is known but that it is a multiple of 512
(20_memory.md R51). The other open parameter, LATENCY, is the place of the engine's turn in `State.events`. -/

namespace Sys2Proof.Config

/-- `PERIOD`: seconds in one time step (00_scope.md R6). -/
@[simp] abbrev period : Nat := 30

/-- `MODULUS` = 10^6: the code is reduced modulo this (00_scope.md R6). -/
@[simp] abbrev modulus : Nat := 1000000

/-- `SECRET_MAX`: bytes in the SECRET buffer (00_scope.md R6). -/
@[simp] abbrev secretMax : Nat := 128

/-- `KEY_MAX`: bytes in the KEY buffer (00_scope.md R6). -/
@[simp] abbrev keyMax : Nat := 80

/-- `MSG_MAX`: bytes in the MSG buffer (00_scope.md R6). -/
@[simp] abbrev msgMax : Nat := 64

/-- `DIGEST_BYTES`: bytes in the DIGEST buffer (00_scope.md R6). -/
@[simp] abbrev digestBytes : Nat := 20

/-- Window offset of DIGEST0 (10_state.md R22). -/
@[simp] abbrev digestBase : Nat := 0x048

/-- Window offset of MSG_W0 (10_state.md R22). -/
@[simp] abbrev msgBase : Nat := 0x080

/-- Window offset of SECRET_W0 (10_state.md R22). -/
@[simp] abbrev secretBase : Nat := 0x100

/-- Window offset of KEY_W0 (10_state.md R22). -/
@[simp] abbrev keyBase : Nat := 0x180

/-- The identification word, the ASCII bytes "TOTP" packed big-endian (10_state.md R24). -/
@[simp] abbrev idWord : Word := 0x544F5450

/-- Free value (20_memory.md R51): which 512-byte window of the platform's address map the block occupies.
Nothing constrains it; see notes/assumptions/5.md. -/
opaque windowIndex : Nat

/-- `BASE`, a multiple of 512 (20_memory.md R51). -/
def base : Nat := 512 * windowIndex

end Sys2Proof.Config
end

