-- ==== Sys2Proof/Machine/State.lean ====
section
/-! DEFINITION. The state of the block as plain data (10_state.md R22 to R36, R40), and the events that move it.
Registers hold their used bits only; a reserved bit has no storage (10_state.md R23; notes/assumptions/9.md). -/

namespace Sys2Proof.Machine

/-- Why the machine stops with a fault: never. The block has no trap and no stuck state, and every admitted
transaction and every command has a defined result (60_exceptions.md R175, R188; 00_scope.md R19). A command error
and a bus error are next states. Safe: no run is cut short (notes/assumptions/7.md). -/
inductive Fault where
deriving DecidableEq, Repr

/-- Why the machine refuses an instruction. -/
inductive Refusal where
  /-- An instruction that has no meaning yet, by its mnemonic. Raised by an arm of `exec`; no arm raises it, since
  every row of the opcode table has its meaning. Safe: a refusal proves nothing of what the hardware does. -/
  | notModelled (mnemonic : String)
deriving DecidableEq, Repr

/-- The outcome code of the most recently completed command, STATUS.ERR (60_exceptions.md R177). Codes 3 to 15 are
never produced and have no constructor (notes/assumptions/10.md). -/
inductive ErrCode where
  /-- 0: the command succeeded -/
  | ok
  /-- 1: the CMD word is not one of the seven -/
  | illegal
  /-- 2: a length operand exceeds its buffer -/
  | len
deriving DecidableEq, Repr

/-- One host bus transaction (20_memory.md R52, R53). Its size is any number of bytes and its offset any of the
512; which ones are admitted is R54's rule (notes/assumptions/14.md). -/
inductive Transaction where
  /-- `MemRead(off, size)` -/
  | read (off : Offset) (size : Nat)
  /-- `MemWrite(off, size, data)` -/
  | write (off : Offset) (size : Nat) (data : Word)
deriving DecidableEq, Repr

/-- What the block answers to a transaction (20_memory.md R52 to R54; notes/assumptions/6.md). -/
inductive BusResponse where
  /-- an admitted read, with the value read -/
  | readOk (data : Word)
  /-- a read that is not admitted: bus error, with the read data that goes with it -/
  | readError (data : Word)
  /-- an admitted write, whether it took effect, was ignored or was dropped -/
  | writeOk
  /-- a write that is not admitted: bus error -/
  | writeError
deriving DecidableEq, Repr

/-- What happens next (20_memory.md R63): transactions, resets and engine steps form one total order. The order is
data, so that a statement about every state is a statement about every interleaving (notes/assumptions/1.md, 16.md). -/
inductive Event where
  /-- a host bus transaction reaches the block -/
  | bus (t : Transaction)
  /-- the engine's turn: completion if a command is in flight (10_state.md R36), nothing otherwise -/
  | engine
  /-- the reset input is asserted (70_reset_and_hazards.md R200) -/
  | reset
deriving DecidableEq, Repr

/-- The byte buffers of 10_state.md R30, keyed by window offset: byte i of a buffer stands at its base + i. Kept in
one canonical form, `Memory.wf` (notes/assumptions/8.md). -/
abbrev Memory := List Host.Cell

/-- Everything the spec gives the block, and two fields of the model's own (`response`, `events`). -/
structure State where
  /-- CTRL.IE, completion-interrupt enable (10_state.md R25) -/
  ie : Bool
  /-- STATUS.BUSY: a command is in flight (10_state.md R26) -/
  busy : Bool
  /-- STATUS.DONE: a command has completed and is not acknowledged (10_state.md R26) -/
  done : Bool
  /-- STATUS.OVR, sticky: a host write was dropped (10_state.md R26) -/
  ovr : Bool
  /-- STATUS.ERR (10_state.md R26, 60_exceptions.md R177) -/
  err : ErrCode
  /-- the hidden register `pend`, the word of the accepted CMD write (10_state.md R36) -/
  pend : Word
  /-- SECRET_LEN[15:0] (10_state.md R28) -/
  secretLen : BitVec 16
  /-- KEY_LEN[15:0] (10_state.md R28) -/
  keyLen : BitVec 16
  /-- MSG_LEN[15:0] (10_state.md R28) -/
  msgLen : BitVec 16
  /-- TIME_LO (10_state.md R29) -/
  timeLo : Word
  /-- TIME_HI (10_state.md R29) -/
  timeHi : Word
  /-- TSTEP_LO (10_state.md R32) -/
  tstepLo : Word
  /-- TSTEP_HI (10_state.md R32) -/
  tstepHi : Word
  /-- TREM[4:0] (10_state.md R33) -/
  trem : BitVec 5
  /-- OFFSET[3:0] (10_state.md R34) -/
  offset : BitVec 4
  /-- BIN (10_state.md R34) -/
  bin : Word
  /-- CODE_NUM[19:0] (10_state.md R35) -/
  codeNum : BitVec 20
  /-- CODE0 (10_state.md R35) -/
  code0 : Word
  /-- CODE1[31:16]; bits [15:0] are always 0 (10_state.md R35) -/
  code1 : BitVec 16
  /-- the bytes of SECRET, KEY, MSG and DIGEST (10_state.md R30) -/
  mem : Memory
  /-- the MODEL's own: the response to the most recent transaction, if there was one since reset
  (notes/assumptions/3.md) -/
  response : Option BusResponse
  /-- the MODEL's own: the events still to happen, oldest first (notes/assumptions/1.md) -/
  events : List Event
deriving DecidableEq, Repr

/-- The block right after reset: the table of 10_state.md R40. No event is listed: the block waits for a CMD write
(70_reset_and_hazards.md R203). -/
def State.reset : State where
  ie := false
  busy := false
  done := false
  ovr := false
  err := .ok
  pend := 0
  secretLen := 0
  keyLen := 0
  msgLen := 0
  timeLo := 0
  timeHi := 0
  tstepLo := 0
  tstepHi := 0
  trem := 0
  offset := 0
  bin := 0
  codeNum := 0
  code0 := 0
  code1 := 0
  mem := []
  response := none
  events := []

end Sys2Proof.Machine
end

