-- ==== Sys2Proof/Machine/Flags.lean ====
section
/-! DEFINITION. The block's only flags, STATUS.BUSY, DONE, OVR and ERR (10_state.md R26, R38), and the interrupt
output that DONE drives (60_exceptions.md R183). -/

namespace Sys2Proof.Machine

/-- The code number of an outcome (60_exceptions.md R177). -/
def ErrCode.toBits : ErrCode → BitVec 4
  | .ok => 0
  | .illegal => 1
  | .len => 2

/-- The value a read of STATUS gives: [0] BUSY, [1] DONE, [2] OVR, [7:4] ERR, the rest 0 (10_state.md R26). -/
def statusWord (s : State) : Word :=
  (BitVec.ofBool s.busy).setWidth 32
    ||| ((BitVec.ofBool s.done).setWidth 32 <<< 1)
    ||| ((BitVec.ofBool s.ovr).setWidth 32 <<< 2)
    ||| (s.err.toBits.setWidth 32 <<< 4)

/-- The interrupt output, a level: `irq = STATUS.DONE AND CTRL.IE` at every instant (60_exceptions.md R183;
notes/assumptions/17.md). -/
def State.irq (s : State) : Bool := s.done && s.ie

/-- The flags of every completion: `STATUS.ERR <- code; STATUS.BUSY <- 0; STATUS.DONE <- 1` (10_state.md R36). -/
def State.complete (s : State) (code : ErrCode) : State :=
  { s with err := code, busy := false, done := true }

/-- A STATUS write of v: bit 1 clears DONE, bit 2 clears OVR, BUSY and ERR never change (10_state.md R26,
20_memory.md R53). -/
def State.clearStatus (s : State) (v : Word) : State :=
  { s with done := s.done && !v.getLsbD 1, ovr := s.ovr && !v.getLsbD 2 }

end Sys2Proof.Machine
end

