-- ==== Sys2Proof/Machine/Ops.lean ====
section
/-! DEFINITION. The named operations over memory and registers, and what the block has in the place of taking an
exception (a failed completion, 60_exceptions.md R176) and of returning from one (the acknowledgement, R189). -/

namespace Sys2Proof.Machine

/-- What an address that memory does not list reads as: the reset value of every buffer byte, 0x00
(10_state.md R30, R40). -/
def Memory.unlisted : Byte := 0x00

/-- The canonical form: addresses strictly rising, and no entry equal to what an unlisted address reads as. -/
abbrev Memory.wf (m : Memory) : Prop :=
  m.Pairwise (fun c d => c.1 < d.1) ∧ ∀ c ∈ m, c.2 ≠ Memory.unlisted

/-- The byte at window offset a. -/
def Memory.read (m : Memory) (a : Nat) : Byte :=
  match m with
  | [] => Memory.unlisted
  | (b, v) :: rest => if a = b then v else Memory.read rest a

/-- Memory with byte v at window offset a, in canonical form if m was. -/
def Memory.write (m : Memory) (a : Nat) (v : Byte) : Memory :=
  match m with
  | [] => if v = Memory.unlisted then [] else [(a, v)]
  | (b, w) :: rest =>
    if a < b then (if v = Memory.unlisted then (b, w) :: rest else (a, v) :: (b, w) :: rest)
    else if a = b then (if v = Memory.unlisted then rest else (a, v) :: rest)
    else (b, w) :: Memory.write rest a v

/-- Memory with the byte string at window offsets a, a+1, ... -/
def Memory.writeBytes (m : Memory) (a : Nat) (s : Bytes) : Memory :=
  match s with
  | [] => m
  | b :: rest => Memory.writeBytes (Memory.write m a b) (a + 1) rest

/-- The n bytes at window offsets a .. a+n-1. -/
def Memory.readBytes (m : Memory) (a n : Nat) : Bytes :=
  (List.range n).map fun i => Memory.read m (a + i)

/-- The buffer word at window offset a: `word_w = BE32(BUF[4w], BUF[4w+1], BUF[4w+2], BUF[4w+3])`
(10_state.md R30). -/
def Memory.readWord (m : Memory) (a : Nat) : Word :=
  be32 (Memory.read m a) (Memory.read m (a + 1)) (Memory.read m (a + 2)) (Memory.read m (a + 3))

/-- A buffer-word write sets the four bytes of that word (20_memory.md R53, 10_state.md R30). -/
def Memory.writeWord (m : Memory) (a : Nat) (v : Word) : Memory :=
  Memory.writeBytes m a (be32bytes v)

/-- KEY and KEY_LEN of a decoded key k: all 80 bytes of KEY, zero beyond len(k) (41_base32.md R95, R102). -/
def State.putKey (s : State) (k : Bytes) : State :=
  { s with
    mem := Memory.writeBytes s.mem Config.keyBase (padTo Config.keyMax k)
    keyLen := BitVec.ofNat 16 k.length }

/-- TSTEP, MSG and MSG_LEN of a time step ts: all 64 bytes of MSG, the counter and then zeros, and MSG_LEN = 8
(42_timestep.md R111, R115). -/
def State.putCounter (s : State) (ts : Nat) : State :=
  { s with
    tstepLo := BitVec.ofNat 32 (ts % 2 ^ 32)
    tstepHi := BitVec.ofNat 32 (ts >>> 32)
    mem := Memory.writeBytes s.mem Config.msgBase (padTo Config.msgMax (be64bytes ts))
    msgLen := 8 }

/-- DIGEST0 to DIGEST4 of a 20-byte digest d: `DIGESTk <- BE32(d[4k], d[4k+1], d[4k+2], d[4k+3])`, which puts
d[i] in byte i of the buffer (43_hmac_sha1.md R131, 10_state.md R30). -/
def State.putDigest (s : State) (d : Bytes) : State :=
  { s with mem := Memory.writeBytes s.mem Config.digestBase (padTo Config.digestBytes d) }

/-- OFFSET and BIN (44_truncate_format.md R145). -/
def State.putTruncated (s : State) (off : BitVec 4) (b : Word) : State :=
  { s with offset := off, bin := b }

/-- CODE_NUM, CODE0 and CODE1 (44_truncate_format.md R149). -/
def State.putCode (s : State) (num : BitVec 20) (c0 : Word) (c1 : BitVec 16) : State :=
  { s with codeNum := num, code0 := c0, code1 := c1 }

/-- TREM (45_generate.md R166). -/
def State.putRemaining (s : State) (r : BitVec 5) : State :=
  { s with trem := r }

/-- The end of a command that succeeds: its results stand in s, `STATUS.ERR <- 0`, BUSY and DONE as for every
completion (10_state.md R36). -/
def commit (s : State) : State := s.complete .ok

/-- `raise Err(code)`: the command ends with `STATUS.ERR <- code`, BUSY and DONE as for every completion, and writes
no other register (60_exceptions.md R176, 00_scope.md R12). Nothing else is saved and control goes nowhere
(60_exceptions.md R188). -/
def raiseErr (code : ErrCode) (s : State) : State := s.complete code

/-- The acknowledgement, the block's return from a completion or an error: a STATUS write of 0x00000006 clears DONE
and OVR; nothing is restored and IE never changes (60_exceptions.md R189, 30_encoding.md R86). -/
def acknowledge (s : State) : State := s.clearStatus 0x00000006

/-- Acceptance of a CMD write of v while BUSY = 0: `pend <- v`, `STATUS.BUSY <- 1`, `STATUS.DONE <- 0`, and nothing
else (10_state.md R27). -/
def State.accept (s : State) (v : Word) : State :=
  { s with pend := v, busy := true, done := false }

/-- A write dropped by the busy rule changes no register and sets `STATUS.OVR <- 1` (20_memory.md R56). -/
def State.dropWrite (s : State) : State := { s with ovr := true }

end Sys2Proof.Machine
end

