-- ==== Sys2Proof/Machine/RegMap.lean ====
section
/-! DEFINITION. The register map of 10_state.md R22: which register stands at an offset, its access type (R23), its
used bits, its value. -/

namespace Sys2Proof.Machine

/-- The registers of the window (10_state.md R22). -/
inductive Reg where
  | id | ctrl | status | cmd | secretLen | keyLen | msgLen | offset | timeLo | timeHi | tstepLo | tstepHi | trem | bin
  | codeNum | code0 | code1
  /-- DIGEST0 to DIGEST4 -/
  | digest (k : Fin 5)
  /-- MSG_W0 to MSG_W15 -/
  | msgW (w : Fin 16)
  /-- SECRET_W0 to SECRET_W31 -/
  | secretW (w : Fin 32)
  /-- KEY_W0 to KEY_W19 -/
  | keyW (w : Fin 20)
deriving DecidableEq, Repr

/-- Access types (10_state.md R23); STATUS is mixed, each field as R26 gives it. -/
inductive Access where
  | ro | rw | wo | mixed
deriving DecidableEq, Repr

/-- The "offset" column of 10_state.md R22. -/
def Reg.addr : Reg → Nat
  | .id => 0x000
  | .ctrl => 0x004
  | .status => 0x008
  | .cmd => 0x00C
  | .secretLen => 0x010
  | .keyLen => 0x014
  | .msgLen => 0x018
  | .offset => 0x01C
  | .timeLo => 0x020
  | .timeHi => 0x024
  | .tstepLo => 0x028
  | .tstepHi => 0x02C
  | .trem => 0x030
  | .bin => 0x034
  | .codeNum => 0x038
  | .code0 => 0x040
  | .code1 => 0x044
  | .digest k => Config.digestBase + 4 * k.val
  | .msgW w => Config.msgBase + 4 * w.val
  | .secretW w => Config.secretBase + 4 * w.val
  | .keyW w => Config.keyBase + 4 * w.val

/-- The "access" column of 10_state.md R22. -/
def Reg.access : Reg → Access
  | .id => .ro
  | .ctrl => .rw
  | .status => .mixed
  | .cmd => .wo
  | .secretLen => .rw
  | .keyLen => .rw
  | .msgLen => .rw
  | .offset => .ro
  | .timeLo => .rw
  | .timeHi => .rw
  | .tstepLo => .ro
  | .tstepHi => .ro
  | .trem => .ro
  | .bin => .rw
  | .codeNum => .ro
  | .code0 => .ro
  | .code1 => .ro
  | .digest _ => .rw
  | .msgW _ => .rw
  | .secretW _ => .rw
  | .keyW _ => .rw

/-- The "used bits" column of 10_state.md R22, as a mask. -/
def Reg.usedBits : Reg → Word
  | .id => 0xFFFFFFFF
  | .ctrl => 0x00000001
  | .status => 0x000000F7
  | .cmd => 0xFFFFFFFF
  | .secretLen => 0x0000FFFF
  | .keyLen => 0x0000FFFF
  | .msgLen => 0x0000FFFF
  | .offset => 0x0000000F
  | .timeLo => 0xFFFFFFFF
  | .timeHi => 0xFFFFFFFF
  | .tstepLo => 0xFFFFFFFF
  | .tstepHi => 0xFFFFFFFF
  | .trem => 0x0000001F
  | .bin => 0xFFFFFFFF
  | .codeNum => 0x000FFFFF
  | .code0 => 0xFFFFFFFF
  | .code1 => 0xFFFF0000
  | .digest _ => 0xFFFFFFFF
  | .msgW _ => 0xFFFFFFFF
  | .secretW _ => 0xFFFFFFFF
  | .keyW _ => 0xFFFFFFFF

/-- `register_at(a)` (20_memory.md R52): the register at a word-aligned window offset, or none if the offset is
reserved (10_state.md R22, 20_memory.md R55). -/
def registerAt (a : Nat) : Option Reg :=
  match a with
  | 0x000 => some .id
  | 0x004 => some .ctrl
  | 0x008 => some .status
  | 0x00C => some .cmd
  | 0x010 => some .secretLen
  | 0x014 => some .keyLen
  | 0x018 => some .msgLen
  | 0x01C => some .offset
  | 0x020 => some .timeLo
  | 0x024 => some .timeHi
  | 0x028 => some .tstepLo
  | 0x02C => some .tstepHi
  | 0x030 => some .trem
  | 0x034 => some .bin
  | 0x038 => some .codeNum
  | 0x040 => some .code0
  | 0x044 => some .code1
  | n =>
    if n % 4 ≠ 0 then none
    else if 0x048 ≤ n ∧ n ≤ 0x058 then some (.digest (Fin.ofNat 5 ((n - 0x048) / 4)))
    else if 0x080 ≤ n ∧ n ≤ 0x0BC then some (.msgW (Fin.ofNat 16 ((n - 0x080) / 4)))
    else if 0x100 ≤ n ∧ n ≤ 0x17C then some (.secretW (Fin.ofNat 32 ((n - 0x100) / 4)))
    else if 0x180 ≤ n ∧ n ≤ 0x1CC then some (.keyW (Fin.ofNat 20 ((n - 0x180) / 4)))
    else none

/-- The 32-bit value of a register; reserved bits are 0 (10_state.md R23 to R35). A read of CMD gives 0 (R27). -/
def regValue (s : State) : Reg → Word
  | .id => Config.idWord
  | .ctrl => (BitVec.ofBool s.ie).setWidth 32
  | .status => statusWord s
  | .cmd => 0
  | .secretLen => s.secretLen.setWidth 32
  | .keyLen => s.keyLen.setWidth 32
  | .msgLen => s.msgLen.setWidth 32
  | .offset => s.offset.setWidth 32
  | .timeLo => s.timeLo
  | .timeHi => s.timeHi
  | .tstepLo => s.tstepLo
  | .tstepHi => s.tstepHi
  | .trem => s.trem.setWidth 32
  | .bin => s.bin
  | .codeNum => s.codeNum.setWidth 32
  | .code0 => s.code0
  | .code1 => s.code1.setWidth 32 <<< 16
  | .digest k => Memory.readWord s.mem (Reg.digest k).addr
  | .msgW w => Memory.readWord s.mem (Reg.msgW w).addr
  | .secretW w => Memory.readWord s.mem (Reg.secretW w).addr
  | .keyW w => Memory.readWord s.mem (Reg.keyW w).addr

/-- `value(r) <- v` for an RW data register or buffer word (20_memory.md R53). The other registers are written by
their own rules, and this leaves them alone. -/
def setReg (s : State) (r : Reg) (v : Word) : State :=
  match r with
  | .id => s
  | .ctrl => s
  | .status => s
  | .cmd => s
  | .secretLen => { s with secretLen := v.setWidth 16 }
  | .keyLen => { s with keyLen := v.setWidth 16 }
  | .msgLen => { s with msgLen := v.setWidth 16 }
  | .offset => s
  | .timeLo => { s with timeLo := v }
  | .timeHi => { s with timeHi := v }
  | .tstepLo => s
  | .tstepHi => s
  | .trem => s
  | .bin => { s with bin := v }
  | .codeNum => s
  | .code0 => s
  | .code1 => s
  | .digest k => { s with mem := Memory.writeWord s.mem (Reg.digest k).addr v }
  | .msgW w => { s with mem := Memory.writeWord s.mem (Reg.msgW w).addr v }
  | .secretW w => { s with mem := Memory.writeWord s.mem (Reg.secretW w).addr v }
  | .keyW w => { s with mem := Memory.writeWord s.mem (Reg.keyW w).addr v }

end Sys2Proof.Machine
end

