-- ==== Sys2Proof/Machine/Bus.lean ====
section
/-! DEFINITION. Host bus transactions, the block's loads and stores (20_memory.md R52 to R56, 60_exceptions.md R181,
R182, R186). -/

namespace Sys2Proof.Machine

/-- A transaction is admitted exactly when its size is 4 bytes and its offset is a multiple of 4 (20_memory.md R54). -/
def admitted (off : Offset) (size : Nat) : Bool := size == 4 && off.toNat % 4 == 0

/-- `MemRead` (20_memory.md R52): the response; a read changes no state. -/
def memRead (s : State) (off : Offset) (size : Nat) : BusResponse :=
  if admitted off size then
    match registerAt off.toNat with
    | none => .readOk 0
    | some .cmd => .readOk 0
    | some r => .readOk (regValue s r &&& r.usedBits)
  else .readError 0

/-- The state after an admitted write to register r (20_memory.md R53): RO ignored, then STATUS and CTRL, then the
busy rule, then the write, in the order of 60_exceptions.md R186. -/
def writeRegister (s : State) (r : Reg) (v : Word) : State :=
  if r.access = .ro then s
  else if r = .status then s.clearStatus v
  else if r = .ctrl then { s with ie := v.getLsbD 0 }
  else if s.busy then s.dropWrite
  else if r = .cmd then s.accept v
  else setReg s r (v &&& r.usedBits)

/-- `MemWrite` (20_memory.md R53): the state after it and the response. -/
def memWrite (s : State) (off : Offset) (size : Nat) (v : Word) : State × BusResponse :=
  if admitted off size then
    match registerAt off.toNat with
    | none => (s, .writeOk)
    | some r => (writeRegister s r v, .writeOk)
  else (s, .writeError)

/-- One transaction takes effect in full (20_memory.md R59, R63) and its response is the most recent one. -/
def transact (s : State) : Transaction → State
  | .read off size => { s with response := some (memRead s off size) }
  | .write off size v => { (memWrite s off size v).1 with response := some (memWrite s off size v).2 }

/-- The block decodes only offset bits [8:0] of a platform address (20_memory.md R51). -/
def busOffset (addr : Nat) : Offset := BitVec.ofNat 9 addr

/-- The platform address of a window offset, `BASE + offset` (20_memory.md R51). -/
def platformAddr (off : Offset) : Nat := Config.base + off.toNat

end Sys2Proof.Machine
end

