-- ==== Sys2Proof/Syntax.lean ====
section
/-! DEFINITION. The instructions of the block: the seven commands a host writes to CMD (30_encoding.md R77,
spec/opcode_table.json). Every operand is implicit (30_encoding.md R78), so no constructor has an argument. -/

namespace Sys2Proof

/-- One constructor per row of spec/opcode_table.json. -/
inductive Instr where
  /-- B32DEC, word 0x00000001: decode the Base32 secret into KEY (41_base32.md R95). -/
  | b32dec
  /-- TSTEP, word 0x00000002: time step and 8-byte counter (42_timestep.md R111). -/
  | tstep
  /-- HMAC, word 0x00000003: HMAC-SHA1 of KEY and MSG (43_hmac_sha1.md R131). -/
  | hmac
  /-- TRUNC, word 0x00000004: dynamic truncation of DIGEST (44_truncate_format.md R145). -/
  | trunc
  /-- FMT, word 0x00000005: reduction and 6-digit formatting of BIN (44_truncate_format.md R149). -/
  | fmt
  /-- GEN, word 0x00000006: the whole pipeline (45_generate.md R160). -/
  | gen
  /-- TREM, word 0x00000007: seconds remaining in the window (45_generate.md R166). -/
  | trem
deriving DecidableEq, Repr

end Sys2Proof
end

