-- ==== Sys2Proof/WellFormed.lean ====
section
/-! DEFINITION. What a well-formed command is. A command has no operand, so every term of `Instr` is well formed
(30_encoding.md R78); what can be ill formed is the CMD word, whose two fields are checked here
(30_encoding.md R76, R80). -/

namespace Sys2Proof

/-- The two fields of a CMD word (30_encoding.md R76). -/
structure CmdFields where
  /-- bits [3:0], the opcode -/
  op : BitVec 4
  /-- bits [31:4], reserved, must be 0 -/
  rsvd : BitVec 28
deriving DecidableEq, Repr

/-- First check: the reserved bits are 0 (30_encoding.md R76). -/
def CmdFields.reservedClear (f : CmdFields) : Bool := f.rsvd == 0#28

/-- Second check: the opcode is one of 0x1 to 0x7 (30_encoding.md R77). -/
def CmdFields.opDefined (f : CmdFields) : Bool := 0x1#4 ≤ f.op && f.op ≤ 0x7#4

/-- A CMD word selects a command exactly when both checks hold (30_encoding.md R80, R81). -/
def CmdFields.wf (f : CmdFields) : Bool := f.reservedClear && f.opDefined

/-- An instruction term is well formed: it names no register, carries no immediate and has no addressing
mode that could be out of range (30_encoding.md R78). -/
def Instr.wf : Instr → Bool
  | .b32dec => true
  | .tstep => true
  | .hmac => true
  | .trunc => true
  | .fmt => true
  | .gen => true
  | .trem => true

end Sys2Proof
end

