-- ==== Sys2Proof/Decode.lean ====
section
/-! DEFINITION. Decoding and encoding of CMD words (30_encoding.md R75 to R81). Decoding is total on all 2^32 words;
an illegal word is rejected by the name of the field that makes it illegal. -/

namespace Sys2Proof

/-- Why a CMD word is illegal (30_encoding.md R80). -/
inductive DecodeError where
  /-- bits [31:4] are not 0 -/
  | reservedBits (rsvd : BitVec 28)
  /-- the opcode is 0x0 or 0x8 to 0xF -/
  | undefinedOpcode (op : BitVec 4)
deriving DecidableEq, Repr

/-- The two fields of a CMD word (30_encoding.md R76). -/
def cmdFields (w : Word) : CmdFields :=
  { op := w.extractLsb' 0 4, rsvd := w.extractLsb' 4 28 }

/-- `OPMAP`, the complete opcode map (30_encoding.md R77). -/
def opmap (op : BitVec 4) : Option Instr :=
  if op = 0x1#4 then some .b32dec
  else if op = 0x2#4 then some .tstep
  else if op = 0x3#4 then some .hmac
  else if op = 0x4#4 then some .trunc
  else if op = 0x5#4 then some .fmt
  else if op = 0x6#4 then some .gen
  else if op = 0x7#4 then some .trem
  else none

/-- `decode(pend)` (30_encoding.md R76): `OPMAP[pend[3:0]]` if `pend[31:4] = 0` and the entry is defined,
otherwise illegal. -/
def decode (w : Word) : Except DecodeError Instr :=
  let f := cmdFields w
  if f.rsvd ≠ 0#28 then .error (.reservedBits f.rsvd)
  else
    match opmap f.op with
    | some i => .ok i
    | none => .error (.undefinedOpcode f.op)

/-- The CMD word of a command, the "word" column of 30_encoding.md R77. -/
def encode : Instr → Word
  | .b32dec => 0x00000001
  | .tstep => 0x00000002
  | .hmac => 0x00000003
  | .trunc => 0x00000004
  | .fmt => 0x00000005
  | .gen => 0x00000006
  | .trem => 0x00000007

/-- What the decoder reads from an instruction of `nbits` bits whose bits are `w`. Every command is exactly one
32-bit write to CMD (30_encoding.md R75), so bits above `nbits` are 0 and a number that does not fit in 32 bits
is no command word. The CMD register takes the whole word at once, so no byte order enters (20_memory.md R58;
notes/assumptions/21.md). -/
def decodeTableWord (nbits w : Nat) : Option Instr :=
  let v := w % 2 ^ nbits
  if v < 2 ^ 32 then
    match decode (BitVec.ofNat 32 v) with
    | .ok i => some i
    | .error _ => none
  else none

end Sys2Proof
end

