-- ==== Sys2Proof/Machine/Operands.lean ====
section
/-! DEFINITION. Operand assembly (30_encoding.md R78, R79): every operand form the commands have. No operand is
sign-extended, scaled or shifted. -/

namespace Sys2Proof.Machine

/-- `TIME = TIME_HI << 32 | TIME_LO`, an unsigned 64-bit number of seconds (42_timestep.md R110). -/
def timeOperand (s : State) : Nat :=
  (s.timeHi.toNat <<< 32) ||| s.timeLo.toNat

/-- `SECRET[0:SECRET_LEN]` (30_encoding.md R79, 10_state.md R31). -/
def secretOperand (s : State) : Bytes :=
  Memory.readBytes s.mem Config.secretBase s.secretLen.toNat

/-- `KEY[0:KEY_LEN]` (30_encoding.md R79). -/
def keyOperand (s : State) : Bytes :=
  Memory.readBytes s.mem Config.keyBase s.keyLen.toNat

/-- `MSG[0:MSG_LEN]` (30_encoding.md R79). -/
def msgOperand (s : State) : Bytes :=
  Memory.readBytes s.mem Config.msgBase s.msgLen.toNat

/-- DIGEST0 to DIGEST4 as 20 bytes (44_truncate_format.md R145). -/
def digestOperand (s : State) : Bytes :=
  Memory.readBytes s.mem Config.digestBase Config.digestBytes

/-- BIN, the full 32-bit register as an unbounded integer (30_encoding.md R79). -/
def binOperand (s : State) : Nat := s.bin.toNat

/-- B32DEC and GEN fail with LEN exactly when this holds (60_exceptions.md R180). -/
def secretTooLong (s : State) : Bool := decide (Config.secretMax < s.secretLen.toNat)

/-- HMAC fails with LEN exactly when this holds (60_exceptions.md R180). -/
def hmacTooLong (s : State) : Bool :=
  decide (Config.keyMax < s.keyLen.toNat) || decide (Config.msgMax < s.msgLen.toNat)

end Sys2Proof.Machine
end

