-- ==== Sys2Proof/Machine/Base32.lean ====
section
/-! DEFINITION. The Base32 decoder and B32DEC (41_base32.md). -/

namespace Sys2Proof.Machine

/-- `sym(c)`: the 5-bit value of a character, or none if it is not in the alphabet (41_base32.md R96). -/
def sym (c : Byte) : Option (BitVec 5) :=
  if 0x41#8 ≤ c ∧ c ≤ 0x5A#8 then some (BitVec.ofNat 5 (c.toNat - 0x41))
  else if 0x61#8 ≤ c ∧ c ≤ 0x7A#8 then some (BitVec.ofNat 5 (c.toNat - 0x61))
  else if 0x32#8 ≤ c ∧ c ≤ 0x37#8 then some (BitVec.ofNat 5 (c.toNat - 0x32 + 26))
  else none

/-- The five bits a symbol appends, most significant first (41_base32.md R97). -/
def symbolBits (v : BitVec 5) : List Bool :=
  [v.getLsbD 4, v.getLsbD 3, v.getLsbD 2, v.getLsbD 1, v.getLsbD 0]

/-- The symbol values of a secret, in order; a byte with none is skipped (41_base32.md R96, R97). -/
def symbols (s : Bytes) : List (BitVec 5) := s.filterMap sym

/-- The bit sequence `bits` of a secret (41_base32.md R97). -/
def secretBits (s : Bytes) : List Bool := (symbols s).flatMap symbolBits

/-- Output byte m: the sum over k = 0..7 of `bits[8m + k] << (7 - k)` (41_base32.md R98). -/
def byteFromBits (bits : List Bool) (m : Nat) : Byte :=
  BitVec.ofNat 8 (((List.range 8).map fun k => (bits.getD (8 * m + k) false).toNat <<< (7 - k)).sum)

/-- Consecutive 8-bit groups from the start; a trailing group shorter than 8 bits is discarded (41_base32.md R98). -/
def packBits (bits : List Bool) : Bytes :=
  (List.range (bits.length / 8)).map (byteFromBits bits)

/-- `b32decode(s)` (41_base32.md R99). -/
def b32decode (s : Bytes) : Bytes := packBits (secretBits s)

/-- B32DEC (41_base32.md R95). -/
def execB32dec (s : State) : Host.Outcome State Fault Refusal :=
  if secretTooLong s then .next (raiseErr .len s)
  else .next (commit (s.putKey (b32decode (secretOperand s))))

end Sys2Proof.Machine
end

