-- ==== Sys2Proof/Machine/Format.lean ====
section
/-! DEFINITION. Reduction, 6-digit formatting and FMT (44_truncate_format.md R149 to R151). -/

namespace Sys2Proof.Machine

/-- `c = BIN mod 1,000,000` (44_truncate_format.md R150). -/
def reduceCode (b : Nat) : Nat := b % Config.modulus

/-- `g_j = (c div 10^(5-j)) mod 10`, digit 0 the most significant (44_truncate_format.md R151). -/
def codeDigit (c j : Nat) : Nat := c / 10 ^ (5 - j) % 10

/-- The ASCII byte of digit j, `0x30 + g_j` (44_truncate_format.md R151). -/
def codeChar (c j : Nat) : Byte := BitVec.ofNat 8 (0x30 + codeDigit c j)

/-- `CODE0 = BE32(0x30+g_0, 0x30+g_1, 0x30+g_2, 0x30+g_3)` (44_truncate_format.md R151). -/
def packCode0 (c : Nat) : Word := be32 (codeChar c 0) (codeChar c 1) (codeChar c 2) (codeChar c 3)

/-- CODE1[31:16], where `CODE1 = BE32(0x30+g_4, 0x30+g_5, 0x00, 0x00)` (44_truncate_format.md R151). -/
def packCode1 (c : Nat) : BitVec 16 :=
  (be32 (codeChar c 4) (codeChar c 5) 0x00 0x00).extractLsb' 16 16

/-- CODE_NUM, CODE0 and CODE1 of a reduced code c (44_truncate_format.md R149). -/
def State.putFormatted (s : State) (c : Nat) : State :=
  s.putCode (BitVec.ofNat 20 c) (packCode0 c) (packCode1 c)

/-- FMT (44_truncate_format.md R149). -/
def execFmt (s : State) : Host.Outcome State Fault Refusal :=
  .next (commit (s.putFormatted (reduceCode (binOperand s))))

end Sys2Proof.Machine
end

