-- ==== Sys2Proof/Machine/Sha1.lean ====
section
/-! DEFINITION. SHA-1 as 43_hmac_sha1.md R120 to R127 define it (the spec marks these rules as its own general
knowledge; notes/assumptions/12.md). -/

namespace Sys2Proof.Machine

/-- `ROTL_n(x)` for 0 < n < 32 (00_scope.md R11). -/
def rotl (n : Nat) (x : Word) : Word := (x <<< n) ||| (x >>> (32 - n))

/-- The five 32-bit words of a hash value H0..H4, and the working variables a..e (43_hmac_sha1.md R123, R126). -/
structure HashWords where
  a : Word
  b : Word
  c : Word
  d : Word
  e : Word
deriving DecidableEq, Repr

/-- The least k with `(l + 1 + k) mod 64 = 56` (43_hmac_sha1.md R121; notes/assumptions/11.md). -/
def sha1PadZeros (l : Nat) : Nat := (119 - l % 64) % 64

/-- The padded message `m ++ [0x80] ++ zeros(k) ++ BE64bytes(8 x l)` (43_hmac_sha1.md R121). -/
def sha1Pad (m : Bytes) : Bytes :=
  m ++ [0x80#8] ++ zeros (sha1PadZeros m.length) ++ be64bytes (8 * m.length)

/-- `M_j[0..15]`, the sixteen big-endian words of block j (43_hmac_sha1.md R122). -/
def sha1Block (p : Bytes) (j : Nat) : List Word :=
  (List.range 16).map fun t => wordAt p (16 * j + t)

/-- The initial hash value (43_hmac_sha1.md R123). -/
def sha1Init : HashWords :=
  { a := 0x67452301, b := 0xEFCDAB89, c := 0x98BADCFE, d := 0x10325476, e := 0xC3D2E1F0 }

/-- `f_t(b, c, d)` (43_hmac_sha1.md R124). -/
def sha1F (t : Nat) (b c d : Word) : Word :=
  if t < 20 then (b &&& c) ^^^ (~~~b &&& d)
  else if t < 40 then b ^^^ c ^^^ d
  else if t < 60 then (b &&& c) ^^^ (b &&& d) ^^^ (c &&& d)
  else b ^^^ c ^^^ d

/-- `K_t` (43_hmac_sha1.md R124). -/
def sha1K (t : Nat) : Word :=
  if t < 20 then 0x5A827999
  else if t < 40 then 0x6ED9EBA1
  else if t < 60 then 0x8F1BBCDC
  else 0xCA62C1D6

/-- `W[t] = ROTL_1(W[t-3] XOR W[t-8] XOR W[t-14] XOR W[t-16])` from the words before it (43_hmac_sha1.md R125). -/
def sha1Expand (w : List Word) (t : Nat) : Word :=
  rotl 1 (w.getD (t - 3) 0 ^^^ w.getD (t - 8) 0 ^^^ w.getD (t - 14) 0 ^^^ w.getD (t - 16) 0)

/-- The message schedule W[0..79] of a block (43_hmac_sha1.md R125). -/
def sha1Schedule (block : List Word) : List Word :=
  (List.range' 16 64).foldl (fun w t => w ++ [sha1Expand w t]) block

/-- One round (43_hmac_sha1.md R126). -/
def sha1Round (w : List Word) (h : HashWords) (t : Nat) : HashWords :=
  { a := rotl 5 h.a + sha1F t h.b h.c h.d + h.e + sha1K t + w.getD t 0
    b := h.a
    c := rotl 30 h.b
    d := h.c
    e := h.d }

/-- The compression of one block (43_hmac_sha1.md R126). -/
def sha1Compress (h : HashWords) (block : List Word) : HashWords :=
  let r := (List.range 80).foldl (sha1Round (sha1Schedule block)) h
  { a := h.a + r.a, b := h.b + r.b, c := h.c + r.c, d := h.d + r.d, e := h.e + r.e }

/-- The hash value after every block of the padded message, in order (43_hmac_sha1.md R126). -/
def sha1Words (m : Bytes) : HashWords :=
  let p := sha1Pad m
  (List.range (p.length / 64)).foldl (fun h j => sha1Compress h (sha1Block p j)) sha1Init

/-- `BE32bytes(H0) ++ ... ++ BE32bytes(H4)`, 20 bytes (43_hmac_sha1.md R127). -/
def HashWords.bytes (h : HashWords) : Bytes :=
  be32bytes h.a ++ be32bytes h.b ++ be32bytes h.c ++ be32bytes h.d ++ be32bytes h.e

/-- `SHA1(m)` (43_hmac_sha1.md R120, R127). -/
def sha1 (m : Bytes) : Bytes := (sha1Words m).bytes

end Sys2Proof.Machine
end

