-- ==== Sys2Proof/Machine/Hmac.lean ====
section
/-! DEFINITION. HMAC-SHA1 and the command HMAC (43_hmac_sha1.md R128 to R131). -/

namespace Sys2Proof.Machine

/-- `K'`: the key itself, or its hash if it is longer than the 64-byte block (43_hmac_sha1.md R128). -/
def hmacShortKey (k : Bytes) : Bytes := if 64 < k.length then sha1 k else k

/-- `K0 = K' ++ zeros(64 - len(K'))` (43_hmac_sha1.md R128). -/
def hmacKeyBlock (k : Bytes) : Bytes :=
  hmacShortKey k ++ zeros (64 - (hmacShortKey k).length)

/-- `K0 XOR repeat(pad, 64)`, bytewise (43_hmac_sha1.md R129). -/
def xorPad (pad : Byte) (k0 : Bytes) : Bytes := k0.map fun b => b ^^^ pad

/-- `HMAC_SHA1(K, m) = SHA1((K0 XOR opad) ++ SHA1((K0 XOR ipad) ++ m))` (43_hmac_sha1.md R129). -/
def hmacSha1 (k m : Bytes) : Bytes :=
  sha1 (xorPad 0x5C (hmacKeyBlock k) ++ sha1 (xorPad 0x36 (hmacKeyBlock k) ++ m))

/-- HMAC (43_hmac_sha1.md R131). -/
def execHmac (s : State) : Host.Outcome State Fault Refusal :=
  if hmacTooLong s then .next (raiseErr .len s)
  else .next (commit (s.putDigest (hmacSha1 (keyOperand s) (msgOperand s))))

end Sys2Proof.Machine
end

