-- ==== Sys2Proof/Machine/TimeStep.lean ====
section
/-! DEFINITION. The time step and its counter, TSTEP (42_timestep.md), and the seconds remaining, TREM
(45_generate.md R166). -/

namespace Sys2Proof.Machine

/-- `timeStep = TIME div 30` (42_timestep.md R112). -/
def timeStep (t : Nat) : Nat := t / Config.period

/-- `30 - (T mod 30)` (45_generate.md R166). -/
def secondsRemaining (t : Nat) : BitVec 5 :=
  BitVec.ofNat 5 (Config.period - t % Config.period)

/-- TSTEP (42_timestep.md R111). -/
def execTstep (s : State) : Host.Outcome State Fault Refusal :=
  .next (commit (s.putCounter (timeStep (timeOperand s))))

/-- TREM (45_generate.md R166). -/
def execTrem (s : State) : Host.Outcome State Fault Refusal :=
  .next (commit (s.putRemaining (secondsRemaining (timeOperand s))))

end Sys2Proof.Machine
end

