-- ==== Sys2Proof/Machine/Truncate.lean ====
section
/-! DEFINITION. Dynamic truncation and TRUNC (44_truncate_format.md R145 to R148). -/

namespace Sys2Proof.Machine

/-- `off = d[19] AND 0x0F` (44_truncate_format.md R146). -/
def truncOffset (d : Bytes) : BitVec 4 := (d.getD 19 0).extractLsb' 0 4

/-- `bin = BE32(d[off] AND 0x7F, d[off+1], d[off+2], d[off+3])` (44_truncate_format.md R147). -/
def truncWindow (d : Bytes) (off : Nat) : Word :=
  be32 (d.getD off 0 &&& 0x7F#8) (d.getD (off + 1) 0) (d.getD (off + 2) 0) (d.getD (off + 3) 0)

/-- The truncated value of a digest (44_truncate_format.md R145). -/
def truncated (d : Bytes) : Word := truncWindow d (truncOffset d).toNat

/-- TRUNC (44_truncate_format.md R145). -/
def execTrunc (s : State) : Host.Outcome State Fault Refusal :=
  .next (commit (s.putTruncated (truncOffset (digestOperand s)) (truncated (digestOperand s))))

end Sys2Proof.Machine
end

