-- ==== Sys2Proof/Machine/Generate.lean ====
section
/-! DEFINITION. GEN, the whole pipeline in one command (45_generate.md R160). -/

namespace Sys2Proof.Machine

/-- The seven steps of GEN for a secret and a time, and every register they write (45_generate.md R160). -/
def State.putGenerated (s : State) (secret : Bytes) (t : Nat) : State :=
  let k := b32decode secret
  let ts := timeStep t
  let d := hmacSha1 k (be64bytes ts)
  let b := truncated d
  (((((s.putKey k).putCounter ts).putDigest d).putTruncated (truncOffset d) b).putFormatted
    (reduceCode b.toNat)).putRemaining (secondsRemaining t)

/-- GEN (45_generate.md R160). -/
def execGen (s : State) : Host.Outcome State Fault Refusal :=
  if secretTooLong s then .next (raiseErr .len s)
  else .next (commit (s.putGenerated (secretOperand s) (timeOperand s)))

end Sys2Proof.Machine
end

