-- ==== Sys2Proof/Machine/Dispatch.lean ====
section
/-! DEFINITION. One arm per command: what its completion does (10_state.md R36, R37). -/

namespace Sys2Proof.Machine

def exec (i : Instr) (s : State) : Host.Outcome State Fault Refusal :=
  match i with
  | .b32dec => Sys2Proof.Machine.execB32dec s
  | .tstep => Sys2Proof.Machine.execTstep s
  | .hmac => Sys2Proof.Machine.execHmac s
  | .trunc => Sys2Proof.Machine.execTrunc s
  | .fmt => Sys2Proof.Machine.execFmt s
  | .gen => Sys2Proof.Machine.execGen s
  | .trem => Sys2Proof.Machine.execTrem s

end Sys2Proof.Machine
end

