-- ==== Sys2Proof/Machine/Engine.lean ====
section
/-! DEFINITION. The engine's one step, completion (10_state.md R36). -/

namespace Sys2Proof.Machine

/-- Completion of the command in flight: pend is decoded now; an illegal word completes with ERR = ILLEGAL and writes
no result register, and it is checked before any length (30_encoding.md R76, R80; 60_exceptions.md R179, R185). -/
def completion (s : State) : Host.Outcome State Fault Refusal :=
  match decode s.pend with
  | .ok i => exec i s
  | .error _ => .next (raiseErr .illegal s)

/-- The engine's turn: while BUSY = 1 completion is its one enabled step; while BUSY = 0 it has none and the block
idles with all state held (10_state.md R36; 60_exceptions.md R197; notes/assumptions/19.md). -/
def engineTurn (s : State) : Host.Outcome State Fault Refusal :=
  if s.busy then completion s else .next s

end Sys2Proof.Machine
end

