-- ==== Sys2Proof/Machine/Events.lean ====
section
/-! DEFINITION. What each event of the total order does to the block (20_memory.md R63). -/

namespace Sys2Proof.Machine

/-- One event takes place: a transaction, the engine's turn or a reset. A reset gives the reset state, discards a
command in flight (70_reset_and_hazards.md R200, R201) and keeps what is still to happen outside the block
(notes/assumptions/13.md). -/
def occur (s : State) (e : Event) : Host.Outcome State Fault Refusal :=
  match e with
  | .bus t => .next (transact s t)
  | .engine => engineTurn s
  | .reset => .next { State.reset with events := s.events }

end Sys2Proof.Machine
end

