-- ==== Sys2Proof/Machine/Step.lean ====
section
/-! DEFINITION. One step of the block: the next event of the total order takes place (20_memory.md R63). -/

namespace Sys2Proof.Machine

/-- One step. The next listed event happens. Where no event is listed it is the engine's turn: a command in flight
completes (00_scope.md R19, weak fairness of R209; notes/assumptions/2.md), an idle block idles (R203). No time is
modelled (R209; notes/assumptions/18.md). -/
def step (s : State) : Host.Outcome State Fault Refusal :=
  match s.events with
  | [] => occur s .engine
  | e :: rest => occur { s with events := rest } e

/-- s with the command word w accepted into pend (10_state.md R27) and the engine to move next, so that the very next
step is the completion of exactly that command. It stands for the host's CMD write (notes/assumptions/4.md). -/
def State.withFetchWord (s : State) (nbits w : Nat) : State :=
  { s.accept (BitVec.ofNat 32 (w % 2 ^ nbits)) with events := .engine :: s.events }

end Sys2Proof.Machine
end

