-- ==== Sys2Proof/Machine/HostProgram.lean ====
section
/-! DEFINITION. The host program notation (30_encoding.md R85, R86): what a host writes down, as bus transactions, and
how a host runs it against the block. A pseudo-instruction adds no behaviour: its meaning is its expansion. -/

namespace Sys2Proof.Machine

/-- The two host instructions (30_encoding.md R85). -/
inductive HostInstr where
  /-- `WR <reg>, <imm32>` -/
  | wr (off : Offset) (imm : Word)
  /-- `RD <reg>` -/
  | rd (off : Offset)
deriving DecidableEq, Repr

/-- The four byte buffers (10_state.md R30). -/
inductive Buffer where
  | secret | key | msg | digest
deriving DecidableEq, Repr

/-- The pseudo-instructions (30_encoding.md R86). -/
inductive Pseudo where
  /-- `CMD <MNEMONIC>` -/
  | cmd (i : Instr)
  /-- `WAIT` -/
  | wait
  /-- `ACK` -/
  | ack
  /-- `SETTIME <t>` -/
  | setTime (t : Nat)
  /-- `LOADB <BUF>, <byte string>` -/
  | loadB (b : Buffer) (s : Bytes)
  /-- `READB <BUF>, <n>` -/
  | readB (b : Buffer) (n : Nat)
deriving DecidableEq, Repr

/-- Window offset of the buffer's word 0 (10_state.md R22). -/
def Buffer.base : Buffer → Nat
  | .secret => Config.secretBase
  | .key => Config.keyBase
  | .msg => Config.msgBase
  | .digest => Config.digestBase

/-- Bytes in the buffer (10_state.md R30). -/
def Buffer.capacity : Buffer → Nat
  | .secret => Config.secretMax
  | .key => Config.keyMax
  | .msg => Config.msgMax
  | .digest => Config.digestBytes

/-- The transaction a host instruction is (30_encoding.md R85). -/
def HostInstr.transaction : HostInstr → Transaction
  | .wr off imm => .write off 4 imm
  | .rd off => .read off 4

/-- `off(<reg>)` (30_encoding.md R85). -/
def Reg.offset9 (r : Reg) : Offset := BitVec.ofNat 9 r.addr

/-- Word w of a buffer, as an offset. -/
def Buffer.wordOffset (b : Buffer) (w : Nat) : Offset := BitVec.ofNat 9 (b.base + 4 * w)

/-- A pseudo-instruction can be written: the time fits in TIME (42_timestep.md R116) and the bytes in the buffer, whose
words have no names beyond it (10_state.md R22; notes/assumptions/20.md). -/
def Pseudo.wf : Pseudo → Bool
  | .cmd i => i.wf
  | .wait => true
  | .ack => true
  | .setTime t => decide (t < 2 ^ 64)
  | .loadB b s => decide (s.length ≤ b.capacity)
  | .readB b n => decide (n ≤ b.capacity)

/-- One line of an expanded host program (30_encoding.md R86). -/
inductive HostLine where
  /-- the instruction once -/
  | once (i : HostInstr)
  /-- `loop: i; if bit 0 of the value is 1, repeat` -/
  | loopWhileBit0 (i : HostInstr)
deriving DecidableEq, Repr

/-- The host instruction of a line. -/
def HostLine.instr : HostLine → HostInstr
  | .once i => i
  | .loopWhileBit0 i => i

/-- Bit 0 of the value that a transaction returns. A write returns none, and a bus error is never taken for a value
(93_implementation_defined.md), so both count as 0 and a loop ends on them. That a loop ends on a bus error is a DESIGN
CHOICE (notes/assumptions/22.md): how the host learns of it is the platform's (60_exceptions.md R181). -/
def BusResponse.bit0 : BusResponse → Bool
  | .readOk data => data.getLsbD 0
  | .readError _ => false
  | .writeOk => false
  | .writeError => false

/-- The line is to be run again after it got the response p: a loop, while bit 0 of the value read is 1
(30_encoding.md R86). -/
def HostLine.repeats : HostLine → BusResponse → Bool
  | .once _, _ => false
  | .loopWhileBit0 _, p => p.bit0

/-- The expansion column of 30_encoding.md R86. -/
def Pseudo.expand : Pseudo → List HostLine
  | .cmd i => [.once (.wr Reg.cmd.offset9 (encode i))]
  | .wait => [.loopWhileBit0 (.rd Reg.status.offset9)]
  | .ack => [.once (.wr Reg.status.offset9 0x00000006)]
  | .setTime t =>
    [.once (.wr Reg.timeLo.offset9 (BitVec.ofNat 32 (t % 2 ^ 32))),
      .once (.wr Reg.timeHi.offset9 (BitVec.ofNat 32 (t >>> 32)))]
  | .loadB b s => (List.range ((s.length + 3) / 4)).map fun w => .once (.wr (b.wordOffset w) (wordAt s w))
  | .readB b n => (List.range ((n + 3) / 4)).map fun w => .once (.rd (b.wordOffset w))

/-- What the block answers to a transaction in s. -/
def answer (s : State) : Transaction → BusResponse
  | .read off size => memRead s off size
  | .write off size v => (memWrite s off size v).2

/-- The host's turn: it performs the transaction of its next line, and has what is left of its program before it
(30_encoding.md R85, R86). A host whose program is over does nothing. A host whose transaction got a bus error goes on
to its next line: a DESIGN CHOICE, since the platform decides what a bus error does to its master (60_exceptions.md R181;
notes/assumptions/22.md). -/
def hostTurn (p : List HostLine) (s : State) : List HostLine × State :=
  match p with
  | [] => ([], s)
  | l :: rest =>
    (if l.repeats (answer s l.instr.transaction) then l :: rest else rest, transact s l.instr.transaction)

/-- The host alone for n turns. -/
def hostTurns (n : Nat) (p : List HostLine) (s : State) : List HostLine × State :=
  match n with
  | 0 => (p, s)
  | k + 1 => hostTurns k (hostTurn p s).1 (hostTurn p s).2

/-- Who moves next beside a running host program (20_memory.md R63). -/
inductive Move where
  /-- this host -/
  | host
  /-- the engine, another master's transaction, or a reset -/
  | other (e : Event)
deriving DecidableEq, Repr

/-- A host program runs against the block under a sequence of moves: what is left of it, and the block
(20_memory.md R63, R64; notes/assumptions/15.md). -/
def hostRun (moves : List Move) (p : List HostLine) (s : State) :
    Host.Outcome (List HostLine × State) Fault Refusal :=
  match moves with
  | [] => .next (p, s)
  | .host :: rest => hostRun rest (hostTurn p s).1 (hostTurn p s).2
  | .other e :: rest =>
    match occur s e with
    | .next t => hostRun rest p t
    | .fault f => .fault f
    | .refused r => .refused r

end Sys2Proof.Machine
end

