-- ==== Sys2Proof/Safety.lean ====
section
/-! DEFINITION. What counts as a safe run of this block, in the terms the claims use: the invariant of the block's
state, what the host can see of a state, and what a write dropped by the busy rule is. -/

namespace Sys2Proof.Machine

/-- A window offset at which a buffer byte stands (10_state.md R22, R30). -/
abbrev bufferAddr (a : Nat) : Prop :=
  (Config.digestBase ≤ a ∧ a < Config.digestBase + Config.digestBytes)
    ∨ (Config.msgBase ≤ a ∧ a < Config.msgBase + Config.msgMax)
    ∨ (Config.secretBase ≤ a ∧ a < Config.secretBase + Config.secretMax)
    ∨ (Config.keyBase ≤ a ∧ a < Config.keyBase + Config.keyMax)

/-- CODE_NUM, CODE0 and CODE1 hold no code yet, or one code below 1,000,000 and its six digit characters
(10_state.md R35, 44_truncate_format.md R151). -/
abbrev State.codeShown (s : State) : Prop :=
  (s.codeNum = 0 ∧ s.code0 = 0 ∧ s.code1 = 0)
    ∨ (s.codeNum.toNat < Config.modulus ∧ s.code0 = packCode0 s.codeNum.toNat ∧ s.code1 = packCode1 s.codeNum.toNat)

/-- The invariant of the block. Memory keeps its canonical form and lists only buffer bytes; no command is both in
flight and completed (10_state.md R26, R27, R36); TREM is "not yet computed" or in 1..30 (R33); the code registers
agree with each other (R35); the top four bits of TSTEP are 0 (42_timestep.md R112). -/
abbrev State.Inv (s : State) : Prop :=
  Memory.wf s.mem ∧ (∀ c ∈ s.mem, bufferAddr c.1) ∧ ¬(s.busy = true ∧ s.done = true)
    ∧ s.trem.toNat ≤ Config.period ∧ s.codeShown ∧ s.tstepHi.toNat < 2 ^ 28

/-- The registers the busy rule protects: CMD and every RW register other than CTRL and STATUS (20_memory.md R56). -/
def Reg.busyProtected (r : Reg) : Bool := r == .cmd || (r.access == .rw && r != .ctrl)

/-- The transaction would be dropped by the busy rule in s (20_memory.md R56, 70_reset_and_hazards.md R205). -/
def dropped (s : State) : Transaction → Bool
  | .read _ _ => false
  | .write off size _ =>
    s.busy && admitted off size &&
      match registerAt off.toNat with
      | none => false
      | some r => r.busyProtected

/-- Two states hold the same inputs of GEN: SECRET_LEN, `SECRET[0:SECRET_LEN]` and TIME (00_scope.md R16,
10_state.md R42). -/
def sameGenInputs (s t : State) : Prop :=
  s.secretLen = t.secretLen ∧ secretOperand s = secretOperand t ∧ s.timeLo = t.timeLo ∧ s.timeHi = t.timeHi

/-- Two states hold the same results of GEN but TREM: KEY, KEY_LEN, TSTEP, MSG, MSG_LEN, DIGEST, OFFSET, BIN, CODE_NUM,
CODE0, CODE1 (45_generate.md R160, R164). -/
def sameCodeResults (s t : State) : Prop :=
  (∀ i, i < Config.keyMax → Memory.read s.mem (Config.keyBase + i) = Memory.read t.mem (Config.keyBase + i))
    ∧ s.keyLen = t.keyLen ∧ s.tstepLo = t.tstepLo ∧ s.tstepHi = t.tstepHi
    ∧ (∀ i, i < Config.msgMax → Memory.read s.mem (Config.msgBase + i) = Memory.read t.mem (Config.msgBase + i))
    ∧ s.msgLen = t.msgLen
    ∧ (∀ i, i < Config.digestBytes →
        Memory.read s.mem (Config.digestBase + i) = Memory.read t.mem (Config.digestBase + i))
    ∧ s.offset = t.offset ∧ s.bin = t.bin ∧ s.codeNum = t.codeNum ∧ s.code0 = t.code0 ∧ s.code1 = t.code1

/-- The host's inputs, the interrupt enable, OVR, the hidden word in flight and the model's own fields are what they
were: no command writes them (10_state.md R37, R38). -/
def sameHostSide (s t : State) : Prop :=
  t.ie = s.ie ∧ t.ovr = s.ovr ∧ t.pend = s.pend ∧ t.secretLen = s.secretLen ∧ t.timeLo = s.timeLo
    ∧ t.timeHi = s.timeHi ∧ t.response = s.response ∧ t.events = s.events

end Sys2Proof.Machine
end

