-- ==== Sys2Proof/Certificates/Slice0/Obligations.lean ====
section
/-! DEFINITION. Statements for the provers, from the numbered rules of spec/. Window offsets are written as the numbers
of 10_state.md R22: DIGEST at 0x048, MSG at 0x080, SECRET at 0x100, KEY at 0x180. -/

open Sys2Proof Sys2Proof.Machine

namespace Sys2Proof.Machine

/-- The n buffer bytes from window offset a on. -/
def bytesAt (s : State) (a n : Nat) : Bytes := (List.range n).map fun i => Memory.read s.mem (a + i)

/-- TIME as a number of seconds (42_timestep.md R110). -/
def timeOf (s : State) : Nat := s.timeHi.toNat * 2 ^ 32 + s.timeLo.toNat

/-- The flags of a completion with outcome e (10_state.md R36). -/
def completedWith (t : State) (e : ErrCode) : Prop := t.err = e ∧ t.busy = false ∧ t.done = true

/-- s after a completion that writes nothing but STATUS (60_exceptions.md R176). -/
def onlyStatus (s : State) (e : ErrCode) : State := { s with err := e, busy := false, done := true }

/-- Window offsets of CMD and of the RW registers other than CTRL and STATUS (20_memory.md R56, 10_state.md R22). -/
abbrev protectedOffset (a : Nat) : Prop :=
  a = 0x00C ∨ a = 0x010 ∨ a = 0x014 ∨ a = 0x018 ∨ a = 0x020 ∨ a = 0x024 ∨ a = 0x034
    ∨ (0x048 ≤ a ∧ a ≤ 0x058) ∨ (0x080 ≤ a ∧ a ≤ 0x0BC) ∨ (0x100 ≤ a ∧ a ≤ 0x17C) ∨ (0x180 ≤ a ∧ a ≤ 0x1CC)

/-- Window offsets the register map lists as reserved (10_state.md R22). -/
abbrev reservedOffset (a : Nat) : Prop :=
  a = 0x03C ∨ (0x05C ≤ a ∧ a ≤ 0x07C) ∨ (0x0C0 ≤ a ∧ a ≤ 0x0FC) ∨ (0x1D0 ≤ a ∧ a ≤ 0x1FC)

/-- Window offsets of the RO registers (10_state.md R22). -/
abbrev readOnlyOffset (a : Nat) : Prop :=
  a = 0x000 ∨ a = 0x01C ∨ a = 0x028 ∨ a = 0x02C ∨ a = 0x030 ∨ a = 0x038 ∨ a = 0x040 ∨ a = 0x044

/-- Window offsets of the buffer words (10_state.md R22, R30). -/
abbrev bufferWordOffset (a : Nat) : Prop :=
  a % 4 = 0 ∧ ((0x048 ≤ a ∧ a ≤ 0x058) ∨ (0x080 ≤ a ∧ a ≤ 0x0BC) ∨ (0x100 ≤ a ∧ a ≤ 0x17C)
    ∨ (0x180 ≤ a ∧ a ≤ 0x1CC))

/-- The block after the host's turns for the lines of a pseudo-instruction, one turn a line and nothing between. -/
def runPseudo (p : Pseudo) (s : State) : State := (hostTurns p.expand.length p.expand s).2

/-- A character in upper case: ASCII letters only (41_base32.md R96). -/
def foldCase (c : Byte) : Byte := if 0x61#8 ≤ c ∧ c ≤ 0x7A#8 then c - 0x20#8 else c

/-- The alphabet of 00_scope.md R6 as ASCII bytes, index = 5-bit value. -/
def alphabet : Bytes :=
  [0x41, 0x42, 0x43, 0x44, 0x45, 0x46, 0x47, 0x48, 0x49, 0x4A, 0x4B, 0x4C, 0x4D, 0x4E, 0x4F, 0x50]
    ++ [0x51, 0x52, 0x53, 0x54, 0x55, 0x56, 0x57, 0x58, 0x59, 0x5A, 0x32, 0x33, 0x34, 0x35, 0x36, 0x37]

end Sys2Proof.Machine

/-! ### Command words -/

/-- 30_encoding.md R77: the seven words of the opcode table, and words just off it. -/
def Obligations.TableWordsDecode : Prop :=
  decodeTableWord 32 0x00000001 = some .b32dec ∧ decodeTableWord 32 0x00000002 = some .tstep
    ∧ decodeTableWord 32 0x00000003 = some .hmac ∧ decodeTableWord 32 0x00000004 = some .trunc
    ∧ decodeTableWord 32 0x00000005 = some .fmt ∧ decodeTableWord 32 0x00000006 = some .gen
    ∧ decodeTableWord 32 0x00000007 = some .trem ∧ decodeTableWord 32 0x00000000 = none
    ∧ decodeTableWord 32 0x00000008 = none ∧ decodeTableWord 32 0x00000016 = none
    ∧ decodeTableWord 32 0x80000003 = none

/-- Decode and encode agree: every command's word decodes to it (30_encoding.md R76, R77). -/
def Obligations.DecodeOfEncode : Prop :=
  ∀ i : Instr, i.wf = true → decode (encode i) = .ok i

/-- 30_encoding.md R77: a CMD word selects a command exactly when it equals the word of the table. -/
def Obligations.WordSelectsCommandExactly : Prop :=
  ∀ w : Word,
    (decode w = .ok .b32dec ↔ w = 0x00000001) ∧ (decode w = .ok .tstep ↔ w = 0x00000002)
      ∧ (decode w = .ok .hmac ↔ w = 0x00000003) ∧ (decode w = .ok .trunc ↔ w = 0x00000004)
      ∧ (decode w = .ok .fmt ↔ w = 0x00000005) ∧ (decode w = .ok .gen ↔ w = 0x00000006)
      ∧ (decode w = .ok .trem ↔ w = 0x00000007)

/-- 60_exceptions.md R179: ERR = ILLEGAL is raised at completion exactly for the illegal words, and then never LEN. -/
def Obligations.IllegalRaisedExactly : Prop :=
  ∀ s t : State, s.busy = true → engineTurn s = .next t →
    (t.err = .illegal ↔
      s.pend.extractLsb' 4 28 ≠ 0#28 ∨ s.pend.extractLsb' 0 4 = 0#4 ∨ 8 ≤ (s.pend.extractLsb' 0 4).toNat)

/-- 30_encoding.md R80: an illegal word is accepted like any other and completes with ERR = 1, writing no result
register; its completion raises DONE and the interrupt. -/
def Obligations.IllegalWordAcceptedThenFails : Prop :=
  ∀ (s : State) (w : Word), s.busy = false →
    (w.extractLsb' 4 28 ≠ 0#28 ∨ w.extractLsb' 0 4 = 0#4 ∨ 8 ≤ (w.extractLsb' 0 4).toNat) →
    (memWrite s 0x00C 4 w).1 = { s with pend := w, busy := true, done := false }
      ∧ ∃ t, engineTurn (memWrite s 0x00C 4 w).1 = .next t ∧ t = { s with pend := w, err := .illegal, done := true }
        ∧ t.irq = s.ie

/-! ### Steps -/

/-- 10_state.md R36, 30_encoding.md R76: when a command is in flight and the engine moves next, the step is the
completion of the command that pend decodes to. -/
def Obligations.StepRunsDecodedCommand : Prop :=
  ∀ (s : State) (i : Instr) (es : List Event), s.busy = true → decode s.pend = .ok i →
    (s.events = .engine :: es → step s = exec i { s with events := es })
      ∧ (s.events = [] → step s = exec i s)

/-- The machine never stops, in any state. For admitted transactions and commands that is 60_exceptions.md R175 and, for a
command in flight, 00_scope.md R19. That a transaction which is not admitted is a next state (notes/assumptions/6.md),
that there is no fault at all (7.md) and that a step with no event listed still goes on (2.md) are the model's choices. -/
def Obligations.StepAlwaysGoesOn : Prop := ∀ s : State, ∃ t, step s = .next t

/-- 10_state.md R36: with no command in flight the engine has no step; the block idles with all state held (R197).
That an unlisted event is the engine's turn is the model's choice (notes/assumptions/2.md). -/
def Obligations.IdleEngineChangesNothing : Prop :=
  ∀ (s : State) (es : List Event), s.busy = false →
    (s.events = .engine :: es → step s = .next { s with events := es }) ∧ (s.events = [] → step s = .next s)

/-- 70_reset_and_hazards.md R200, R201: a reset gives the reset state and discards a command in flight. That the events
still to come outlive it is the model's choice (notes/assumptions/13.md). -/
def Obligations.ResetTakesEverything : Prop :=
  ∀ (s : State) (es : List Event), s.events = .reset :: es → step s = .next { State.reset with events := es }

/-- 10_state.md R40: the value of every piece of state after reset. -/
def Obligations.ResetValues : Prop :=
  regValue State.reset .id = 0x544F5450 ∧ State.reset.ie = false ∧ State.reset.busy = false
    ∧ State.reset.done = false ∧ State.reset.ovr = false ∧ State.reset.err = .ok ∧ State.reset.pend = 0
    ∧ State.reset.secretLen = 0 ∧ State.reset.keyLen = 0 ∧ State.reset.msgLen = 0
    ∧ State.reset.timeLo = 0 ∧ State.reset.timeHi = 0 ∧ State.reset.tstepLo = 0 ∧ State.reset.tstepHi = 0
    ∧ State.reset.trem = 0 ∧ State.reset.offset = 0 ∧ State.reset.bin = 0 ∧ State.reset.codeNum = 0
    ∧ State.reset.code0 = 0 ∧ State.reset.code1 = 0 ∧ (∀ k, regValue State.reset (.digest k) = 0)
    ∧ (∀ a, Memory.read State.reset.mem a = 0x00) ∧ State.reset.irq = false

/-- 70_reset_and_hazards.md R202: a GEN issued straight after reset succeeds and computes "328482". -/
def Obligations.GenAfterReset : Prop :=
  ∃ t, step (State.reset.withFetchWord 32 0x00000006) = .next t ∧ completedWith t .ok ∧ t.keyLen = 0
    ∧ t.codeNum = 328482 ∧ t.code0 = 0x33323834 ∧ t.code1 = 0x3832 ∧ t.trem = 30

/-! ### Base32 -/

/-- 41_base32.md R96: the alphabet gives its index, lower-case letters fold, and exactly 58 bytes have a value. -/
def Obligations.SymbolValues : Prop :=
  alphabet.length = 32 ∧ (∀ i : Fin 32, sym (alphabet.getD i.val 0) = some (BitVec.ofNat 5 i.val))
    ∧ (∀ i : Fin 26, sym (BitVec.ofNat 8 (0x61 + i.val)) = some (BitVec.ofNat 5 i.val))
    ∧ ((List.range 256).filter fun n => (sym (BitVec.ofNat 8 n)).isSome).length = 58

/-- 41_base32.md R98, R99, R101: the number of output bytes, and every output bit, of `b32decode`. -/
def Obligations.Base32BitByBit : Prop :=
  ∀ s : Bytes,
    (b32decode s).length = 5 * (s.filter fun c => (sym c).isSome).length / 8
      ∧ (s.length ≤ 128 → (b32decode s).length ≤ 80)
      ∧ ∀ j, j < 8 * (b32decode s).length →
        ((b32decode s).getD (j / 8) 0).getLsbD (7 - j % 8) = ((s.filterMap sym).getD (j / 5) 0).getLsbD (4 - j % 5)

/-- 41_base32.md R96, R101: case does not matter, and a byte with no symbol value is skipped wherever it stands. -/
def Obligations.Base32IgnoresCaseAndInvalid : Prop :=
  ∀ a junk b : Bytes, (∀ c ∈ junk, sym c = none) →
    b32decode ((a ++ junk ++ b).map foldCase) = b32decode (a ++ b)

/-- 41_base32.md R100: eight consecutive symbols starting at a multiple of 8 give five bytes by the group formulas. -/
def Obligations.Base32GroupOfEight : Prop :=
  ∀ (s : Bytes) (before after : List (BitVec 5)) (v0 v1 v2 v3 v4 v5 v6 v7 : BitVec 5),
    before.length % 8 = 0 → s.filterMap sym = before ++ [v0, v1, v2, v3, v4, v5, v6, v7] ++ after →
      let out := fun k => ((b32decode s).getD (5 * (before.length / 8) + k) 0).toNat
      5 * (before.length / 8) + 5 ≤ (b32decode s).length
        ∧ out 0 = v0.toNat * 8 + v1.toNat / 4
        ∧ out 1 = v1.toNat % 4 * 64 + v2.toNat * 2 + v3.toNat / 16
        ∧ out 2 = v3.toNat % 16 * 16 + v4.toNat / 2
        ∧ out 3 = v4.toNat % 2 * 128 + v5.toNat * 4 + v6.toNat / 8
        ∧ out 4 = v6.toNat % 8 * 32 + v7.toNat

/-- 41_base32.md R95: B32DEC writes all 80 bytes of KEY, zero beyond the decoded key, and KEY_LEN; it fails with LEN
exactly when SECRET_LEN > 128 and then writes only STATUS. -/
def Obligations.B32decResult : Prop :=
  ∀ s : State, Memory.wf s.mem →
    let k := b32decode (bytesAt s 0x100 s.secretLen.toNat)
    (s.secretLen.toNat ≤ 128 → ∃ t, exec .b32dec s = .next t
      ∧ (∀ i, i < 80 → Memory.read t.mem (0x180 + i) = if i < k.length then k.getD i 0 else 0x00)
      ∧ t.keyLen.toNat = k.length ∧ k.length ≤ 80 ∧ completedWith t .ok)
      ∧ (128 < s.secretLen.toNat → exec .b32dec s = .next (onlyStatus s .len))

/-! ### Time -/

/-- 42_timestep.md R111, R112, R113: TSTEP writes TIME div 30, its 8 big-endian bytes, 56 zero bytes and MSG_LEN = 8. -/
def Obligations.TstepResult : Prop :=
  ∀ s : State, Memory.wf s.mem → ∃ t, exec .tstep s = .next t
    ∧ t.tstepHi.toNat * 2 ^ 32 + t.tstepLo.toNat = timeOf s / 30
    ∧ (∀ i, i < 8 → (Memory.read t.mem (0x080 + i)).toNat = timeOf s / 30 / 2 ^ (8 * (7 - i)) % 256)
    ∧ (∀ i, 8 ≤ i → i < 64 → Memory.read t.mem (0x080 + i) = 0x00)
    ∧ t.msgLen = 8 ∧ completedWith t .ok

/-- 42_timestep.md R114: the counter's high four bytes are 0 exactly while TIME < 128,849,018,880, and the eight bytes
always hold the whole time step. -/
def Obligations.CounterNeverTruncated : Prop :=
  ∀ T : Nat, T < 2 ^ 64 →
    ((∀ i, i < 4 → (be64bytes (timeStep T)).getD i 0 = 0x00) ↔ T < 128849018880)
      ∧ (be64bytes (timeStep T)).foldl (fun n b => n * 256 + b.toNat) 0 = T / 30 ∧ T / 30 < 2 ^ 60

/-- 45_generate.md R166: TREM writes 30 - (TIME mod 30). -/
def Obligations.TremResult : Prop :=
  ∀ s : State, ∃ t, exec .trem s = .next t ∧ t.trem.toNat = 30 - timeOf s % 30 ∧ completedWith t .ok

/-- 45_generate.md R167: the range of TREM, when it is 30, and how it goes on from one second to the next. -/
def Obligations.TremSequence : Prop :=
  ∀ T : Nat, 1 ≤ (secondsRemaining T).toNat ∧ (secondsRemaining T).toNat ≤ 30
    ∧ ((secondsRemaining T).toNat = 30 ↔ T % 30 = 0)
    ∧ (secondsRemaining (T + 1)).toNat
        = if (secondsRemaining T).toNat = 1 then 30 else (secondsRemaining T).toNat - 1

/-! ### SHA-1 and HMAC -/

/-- 43_hmac_sha1.md R121: SHA-1 padding, with the least k, to whole blocks. -/
def Obligations.Sha1Padding : Prop :=
  ∀ m : Bytes, ∃ k,
    sha1Pad m = m ++ [0x80#8] ++ List.replicate k 0x00#8 ++ be64bytes (8 * m.length)
      ∧ (m.length + 1 + k) % 64 = 56 ∧ (∀ k', k' < k → (m.length + 1 + k') % 64 ≠ 56)
      ∧ (sha1Pad m).length % 64 = 0 ∧ (sha1Pad m).length / 64 = (m.length + 8) / 64 + 1

/-- 43_hmac_sha1.md R124, R125, R126: the compression of one block, with its schedule W, its working variables v before
and after each of the 80 rounds, and the functions and constants of the rounds. -/
def Obligations.Sha1CompressesBlock : Prop :=
  ∀ (h : HashWords) (block : List Word), block.length = 16 → ∃ (W : Nat → Word) (v : Nat → HashWords),
    (∀ t, t < 16 → W t = block.getD t 0)
      ∧ (∀ t, 16 ≤ t → t < 80 → W t = (W (t - 3) ^^^ W (t - 8) ^^^ W (t - 14) ^^^ W (t - 16)).rotateLeft 1)
      ∧ v 0 = h
      ∧ (∀ t, t < 80 →
          let b := (v t).b
          let c := (v t).c
          let d := (v t).d
          let f : Word := if t ≤ 19 then (b &&& c) ^^^ (~~~b &&& d) else if t ≤ 39 then b ^^^ c ^^^ d
            else if t ≤ 59 then (b &&& c) ^^^ (b &&& d) ^^^ (c &&& d) else b ^^^ c ^^^ d
          let K : Word := if t ≤ 19 then 0x5A827999 else if t ≤ 39 then 0x6ED9EBA1 else if t ≤ 59 then 0x8F1BBCDC
            else 0xCA62C1D6
          v (t + 1) = { a := (v t).a.rotateLeft 5 + f + (v t).e + K + W t, b := (v t).a, c := b.rotateLeft 30, d := c, e := d })
      ∧ sha1Compress h block = { a := h.a + (v 80).a, b := h.b + (v 80).b, c := h.c + (v 80).c, d := h.d + (v 80).d, e := h.e + (v 80).e }

/-- 43_hmac_sha1.md R122, R123, R126, R127: the padded message is compressed block by block, in order, from the initial
value, and the digest is the last hash value, 20 bytes. -/
def Obligations.Sha1ChainsBlocks : Prop :=
  ∀ m : Bytes, ∃ H : Nat → HashWords,
    H 0 = { a := 0x67452301, b := 0xEFCDAB89, c := 0x98BADCFE, d := 0x10325476, e := 0xC3D2E1F0 }
      ∧ (∀ j, j < (sha1Pad m).length / 64 → ∃ block : List Word, block.length = 16
          ∧ (∀ t, t < 16 → (block.getD t 0).toNat
              = ((sha1Pad m).getD (64 * j + 4 * t) 0).toNat * 2 ^ 24 + ((sha1Pad m).getD (64 * j + 4 * t + 1) 0).toNat * 2 ^ 16
                + ((sha1Pad m).getD (64 * j + 4 * t + 2) 0).toNat * 2 ^ 8 + ((sha1Pad m).getD (64 * j + 4 * t + 3) 0).toNat)
          ∧ H (j + 1) = sha1Compress (H j) block)
      ∧ let r := H ((sha1Pad m).length / 64)
        sha1 m = be32bytes r.a ++ be32bytes r.b ++ be32bytes r.c ++ be32bytes r.d ++ be32bytes r.e ∧ (sha1 m).length = 20

/-- 43_hmac_sha1.md R128, R129: the key block and the nested formula. -/
def Obligations.HmacConstruction : Prop :=
  ∀ k m : Bytes,
    let K0 := if 64 < k.length then sha1 k ++ List.replicate 44 0x00#8 else k ++ List.replicate (64 - k.length) 0x00#8
    K0.length = 64 ∧ (hmacSha1 k m).length = 20
      ∧ hmacSha1 k m = sha1 (K0.map (fun x => x ^^^ 0x5C#8) ++ sha1 (K0.map (fun x => x ^^^ 0x36#8) ++ m))

/-- 43_hmac_sha1.md R130: a zero key of any length up to the block gives the digest of the empty key. -/
def Obligations.ZeroKeyIsEmptyKey : Prop :=
  ∀ (n : Nat) (m : Bytes), n ≤ 64 → hmacSha1 (List.replicate n 0x00#8) m = hmacSha1 [] m

/-- 43_hmac_sha1.md R131: HMAC writes DIGEST0 to DIGEST4; it fails with LEN exactly when a length is too large and then
writes only STATUS. -/
def Obligations.HmacResult : Prop :=
  ∀ s : State, Memory.wf s.mem →
    let d := hmacSha1 (bytesAt s 0x180 s.keyLen.toNat) (bytesAt s 0x080 s.msgLen.toNat)
    (s.keyLen.toNat ≤ 80 ∧ s.msgLen.toNat ≤ 64 → ∃ t, exec .hmac s = .next t
      ∧ (∀ k : Fin 5, regValue t (.digest k)
          = be32 (d.getD (4 * k.val) 0) (d.getD (4 * k.val + 1) 0) (d.getD (4 * k.val + 2) 0) (d.getD (4 * k.val + 3) 0))
      ∧ d.length = 20 ∧ completedWith t .ok)
      ∧ (80 < s.keyLen.toNat ∨ 64 < s.msgLen.toNat → exec .hmac s = .next (onlyStatus s .len))

/-- 43_hmac_sha1.md R132: the bytes of KEY and MSG beyond their lengths never affect DIGEST. -/
def Obligations.HmacReadsOnlyWithinLengths : Prop :=
  ∀ s t s' t' : State, Memory.wf s.mem → Memory.wf t.mem → s.keyLen = t.keyLen → s.msgLen = t.msgLen →
    s.keyLen.toNat ≤ 80 → s.msgLen.toNat ≤ 64 →
    (∀ i, i < s.keyLen.toNat → Memory.read s.mem (0x180 + i) = Memory.read t.mem (0x180 + i)) →
    (∀ i, i < s.msgLen.toNat → Memory.read s.mem (0x080 + i) = Memory.read t.mem (0x080 + i)) →
    exec .hmac s = .next s' → exec .hmac t = .next t' →
      ∀ i, i < 20 → Memory.read s'.mem (0x048 + i) = Memory.read t'.mem (0x048 + i)

/-! ### Truncation and formatting -/

/-- 44_truncate_format.md R145, R146, R147, R148: TRUNC writes OFFSET and BIN, the window lies inside the digest and
never takes in byte 19, and BIN is below 2^31. -/
def Obligations.TruncResult : Prop :=
  ∀ s : State, ∃ t, exec .trunc s = .next t
    ∧ let d := fun i => (Memory.read s.mem (0x048 + i)).toNat
      let off := d 19 % 16
      t.offset.toNat = off ∧ off + 3 ≤ 18
        ∧ t.bin.toNat = d off % 128 * 2 ^ 24 + d (off + 1) * 2 ^ 16 + d (off + 2) * 2 ^ 8 + d (off + 3)
        ∧ t.bin.toNat < 2 ^ 31 ∧ completedWith t .ok

/-- 44_truncate_format.md R149, R150, R151: FMT writes CODE_NUM = BIN mod 1,000,000 and its six ASCII digits. -/
def Obligations.FmtResult : Prop :=
  ∀ s : State, ∃ t, exec .fmt s = .next t
    ∧ let c := s.bin.toNat % 1000000
      let g := fun j => 0x30 + c / 10 ^ (5 - j) % 10
      t.codeNum.toNat = c
        ∧ (regValue t .code0).toNat = g 0 * 2 ^ 24 + g 1 * 2 ^ 16 + g 2 * 2 ^ 8 + g 3
        ∧ (regValue t .code1).toNat = g 4 * 2 ^ 24 + g 5 * 2 ^ 16 ∧ completedWith t .ok

/-- 44_truncate_format.md R151: the six characters are digits and spell the code, leading zeros kept. -/
def Obligations.DigitsSpellTheCode : Prop :=
  ∀ c : Nat, c < 1000000 →
    (∀ j, j < 6 → 0x30 ≤ (codeChar c j).toNat ∧ (codeChar c j).toNat ≤ 0x39)
      ∧ (List.range 6).foldl (fun n j => n * 10 + ((codeChar c j).toNat - 0x30)) 0 = c

/-! ### GEN -/

/-- 45_generate.md R160: every register GEN writes, and its one failure. -/
def Obligations.GenResult : Prop :=
  ∀ s : State, Memory.wf s.mem →
    let k := b32decode (bytesAt s 0x100 s.secretLen.toNat)
    let ts := timeOf s / 30
    let d := hmacSha1 k (be64bytes ts)
    let off := (d.getD 19 0).toNat % 16
    let b := (d.getD off 0).toNat % 128 * 2 ^ 24 + (d.getD (off + 1) 0).toNat * 2 ^ 16
      + (d.getD (off + 2) 0).toNat * 2 ^ 8 + (d.getD (off + 3) 0).toNat
    let c := b % 1000000
    let g := fun j => 0x30 + c / 10 ^ (5 - j) % 10
    (s.secretLen.toNat ≤ 128 → ∃ t, exec .gen s = .next t
      ∧ (∀ i, i < 80 → Memory.read t.mem (0x180 + i) = if i < k.length then k.getD i 0 else 0x00)
      ∧ t.keyLen.toNat = k.length
      ∧ t.tstepHi.toNat * 2 ^ 32 + t.tstepLo.toNat = ts
      ∧ (∀ i, i < 64 → Memory.read t.mem (0x080 + i) = if i < 8 then (be64bytes ts).getD i 0 else 0x00)
      ∧ t.msgLen = 8
      ∧ (∀ i, i < 20 → Memory.read t.mem (0x048 + i) = d.getD i 0)
      ∧ t.offset.toNat = off ∧ t.bin.toNat = b ∧ t.codeNum.toNat = c
      ∧ (regValue t .code0).toNat = g 0 * 2 ^ 24 + g 1 * 2 ^ 16 + g 2 * 2 ^ 8 + g 3
      ∧ (regValue t .code1).toNat = g 4 * 2 ^ 24 + g 5 * 2 ^ 16
      ∧ t.trem.toNat = 30 - timeOf s % 30 ∧ completedWith t .ok)
      ∧ (128 < s.secretLen.toNat → exec .gen s = .next (onlyStatus s .len))

/-- 45_generate.md R161: GEN leaves exactly the state that B32DEC, TSTEP, HMAC, TRUNC, FMT, TREM leave in sequence, and
it succeeds exactly when B32DEC would. -/
def Obligations.GenEqualsSequence : Prop :=
  ∀ s : State, Memory.wf s.mem →
    (s.secretLen.toNat ≤ 128 → ∃ s1 s2 s3 s4 s5 s6,
      exec .b32dec s = .next s1 ∧ exec .tstep s1 = .next s2 ∧ exec .hmac s2 = .next s3 ∧ exec .trunc s3 = .next s4
        ∧ exec .fmt s4 = .next s5 ∧ exec .trem s5 = .next s6 ∧ exec .gen s = .next s6
        ∧ completedWith s1 .ok ∧ completedWith s2 .ok ∧ completedWith s3 .ok ∧ completedWith s4 .ok
        ∧ completedWith s5 .ok ∧ completedWith s6 .ok)
      ∧ (128 < s.secretLen.toNat → ∃ t, exec .b32dec s = .next t ∧ exec .gen s = .next t ∧ completedWith t .len)

/-- 45_generate.md R170, 10_state.md R42: two GENs with equal SECRET_LEN, SECRET[0:SECRET_LEN] and TIME write equal
values to every result register, whatever else the two states hold. -/
def Obligations.GenDeterministic : Prop :=
  ∀ s t s' t' : State, Memory.wf s.mem → Memory.wf t.mem → s.secretLen.toNat ≤ 128 → sameGenInputs s t →
    exec .gen s = .next s' → exec .gen t = .next t' →
      sameCodeResults s' t' ∧ s'.trem = t'.trem ∧ s'.err = t'.err ∧ s'.busy = t'.busy ∧ s'.done = t'.done

/-- 45_generate.md R164: within one time step only TREM may differ. -/
def Obligations.GenStableWithinTimeStep : Prop :=
  ∀ s t s' t' : State, Memory.wf s.mem → Memory.wf t.mem → s.secretLen.toNat ≤ 128 → s.secretLen = t.secretLen →
    bytesAt s 0x100 s.secretLen.toNat = bytesAt t 0x100 t.secretLen.toNat → timeOf s / 30 = timeOf t / 30 →
    exec .gen s = .next s' → exec .gen t = .next t' → sameCodeResults s' t'

/-! ### Frames -/

/-- 10_state.md R37, R38: no command writes the host's inputs, CTRL, OVR or pend, and every completion sets DONE and
clears BUSY. -/
def Obligations.CommandsKeepHostSide : Prop :=
  ∀ (i : Instr) (s t : State), exec i s = .next t → sameHostSide s t ∧ t.busy = false ∧ t.done = true

/-- 10_state.md R37: TRUNC writes only OFFSET and BIN, FMT only the code registers, TREM only TREM, each beside
STATUS.ERR, BUSY and DONE; every byte of memory reads as before. -/
def Obligations.RegisterCommandsFrame : Prop :=
  ∀ s t : State,
    (exec .trunc s = .next t →
      t = { s with offset := t.offset, bin := t.bin, err := t.err, busy := t.busy, done := t.done }
        ∧ ∀ a, Memory.read t.mem a = Memory.read s.mem a)
      ∧ (exec .fmt s = .next t →
        t = { s with codeNum := t.codeNum, code0 := t.code0, code1 := t.code1, err := t.err, busy := t.busy, done := t.done }
          ∧ ∀ a, Memory.read t.mem a = Memory.read s.mem a)
      ∧ (exec .trem s = .next t →
        t = { s with trem := t.trem, err := t.err, busy := t.busy, done := t.done }
          ∧ ∀ a, Memory.read t.mem a = Memory.read s.mem a)

/-- 10_state.md R37: B32DEC writes only KEY and KEY_LEN, TSTEP only TSTEP, MSG and MSG_LEN, HMAC only DIGEST, each beside
STATUS.ERR, BUSY and DONE; every byte outside the written buffer reads as before. -/
def Obligations.BufferCommandsFrame : Prop :=
  ∀ s t : State,
    (exec .b32dec s = .next t →
      t = { s with mem := t.mem, keyLen := t.keyLen, err := t.err, busy := t.busy, done := t.done }
        ∧ ∀ a, a < 0x180 ∨ 0x180 + 80 ≤ a → Memory.read t.mem a = Memory.read s.mem a)
      ∧ (exec .tstep s = .next t →
        t = { s with mem := t.mem, tstepLo := t.tstepLo, tstepHi := t.tstepHi, msgLen := t.msgLen, err := t.err, busy := t.busy, done := t.done }
          ∧ ∀ a, a < 0x080 ∨ 0x080 + 64 ≤ a → Memory.read t.mem a = Memory.read s.mem a)
      ∧ (exec .hmac s = .next t →
        t = { s with mem := t.mem, err := t.err, busy := t.busy, done := t.done }
          ∧ ∀ a, a < 0x048 ∨ 0x048 + 20 ≤ a → Memory.read t.mem a = Memory.read s.mem a)

/-- 10_state.md R37: GEN leaves SECRET, SECRET_LEN, TIME and every byte outside KEY, MSG and DIGEST alone. -/
def Obligations.GenFrame : Prop :=
  ∀ s t : State, exec .gen s = .next t →
    sameHostSide s t
      ∧ ∀ a, (a < 0x180 ∨ 0x180 + 80 ≤ a) → (a < 0x080 ∨ 0x080 + 64 ≤ a) → (a < 0x048 ∨ 0x048 + 20 ≤ a) →
        Memory.read t.mem a = Memory.read s.mem a

/-- 60_exceptions.md R176: a command that raises an error writes nothing but STATUS.ERR, BUSY and DONE. -/
def Obligations.FailedCommandWritesOnlyStatus : Prop :=
  ∀ s t : State, s.busy = true → engineTurn s = .next t → t.err ≠ .ok → t = onlyStatus s t.err

/-- 60_exceptions.md R180: when LEN is raised, and by which commands. -/
def Obligations.LenRaisedExactly : Prop :=
  ∀ (i : Instr) (s t : State), exec i s = .next t →
    (t.err = .len ↔
      ((i = .b32dec ∨ i = .gen) ∧ 128 < s.secretLen.toNat)
        ∨ (i = .hmac ∧ (80 < s.keyLen.toNat ∨ 64 < s.msgLen.toNat)))

/-! ### The register window -/

/-- 10_state.md R22, R24 to R35; 60_exceptions.md R177; 20_memory.md R52: the value read at every mapped word offset; ERR
in bits [7:4] is 0 = OK, 1 = ILLEGAL, 2 = LEN. -/
def Obligations.RegisterReads : Prop :=
  ∀ s : State,
    memRead s 0x000 4 = .readOk 0x544F5450 ∧ memRead s 0x004 4 = .readOk (if s.ie then 1 else 0)
      ∧ (∃ v, memRead s 0x008 4 = .readOk v
          ∧ v.toNat = s.busy.toNat + 2 * s.done.toNat + 4 * s.ovr.toNat
            + (match s.err with
              | .ok => 0x00
              | .illegal => 0x10
              | .len => 0x20))
      ∧ memRead s 0x00C 4 = .readOk 0 ∧ memRead s 0x010 4 = .readOk (s.secretLen.setWidth 32)
      ∧ memRead s 0x014 4 = .readOk (s.keyLen.setWidth 32) ∧ memRead s 0x018 4 = .readOk (s.msgLen.setWidth 32)
      ∧ memRead s 0x01C 4 = .readOk (s.offset.setWidth 32) ∧ memRead s 0x020 4 = .readOk s.timeLo
      ∧ memRead s 0x024 4 = .readOk s.timeHi ∧ memRead s 0x028 4 = .readOk s.tstepLo
      ∧ memRead s 0x02C 4 = .readOk s.tstepHi ∧ memRead s 0x030 4 = .readOk (s.trem.setWidth 32)
      ∧ memRead s 0x034 4 = .readOk s.bin ∧ memRead s 0x038 4 = .readOk (s.codeNum.setWidth 32)
      ∧ memRead s 0x040 4 = .readOk s.code0 ∧ memRead s 0x044 4 = .readOk (s.code1 ++ 0#16)
      ∧ ∀ off : Offset, bufferWordOffset off.toNat →
        memRead s off 4 = .readOk (be32 (Memory.read s.mem off.toNat) (Memory.read s.mem (off.toNat + 1))
          (Memory.read s.mem (off.toNat + 2)) (Memory.read s.mem (off.toNat + 3)))

/-- 20_memory.md R52, R53, R60, R63: a step whose next event is a transaction is exactly that transaction, busy or not. A
read changes only the response (the model's own field, notes/assumptions/3.md), and the same read again gives the same
response; a write is `memWrite`, and its response is the response. -/
def Obligations.StepTakesTheTransaction : Prop :=
  ∀ (s : State) (off : Offset) (size : Nat) (v : Word) (es : List Event),
    (s.events = .bus (.read off size) :: es →
      ∃ t, step s = .next t ∧ t = { s with events := es, response := some (memRead s off size) }
        ∧ memRead t off size = memRead s off size)
      ∧ (s.events = .bus (.write off size v) :: es →
        step s = .next { (memWrite { s with events := es } off size v).1 with
          response := some (memWrite { s with events := es } off size v).2 })

/-- 60_exceptions.md R181, 20_memory.md R54: a transaction that is not admitted gets a bus error, read data 0, and
changes no state. -/
def Obligations.NotAdmittedIsBusError : Prop :=
  ∀ (s : State) (off : Offset) (size : Nat) (v : Word), (size ≠ 4 ∨ off.toNat % 4 ≠ 0) →
    transact s (.read off size) = { s with response := some (.readError 0) }
      ∧ transact s (.write off size v) = { s with response := some .writeError }
      ∧ (transact s (.read off size)).irq = s.irq ∧ (transact s (.write off size v)).irq = s.irq

/-- 20_memory.md R56: the busy rule. -/
def Obligations.BusyRule : Prop :=
  ∀ (s : State) (off : Offset) (v : Word), s.busy = true → off.toNat % 4 = 0 →
    (protectedOffset off.toNat → memWrite s off 4 v = ({ s with ovr := true }, .writeOk))
      ∧ (off = 0x004 → memWrite s off 4 v = ({ s with ie := v.getLsbD 0 }, .writeOk))
      ∧ (off = 0x008 → memWrite s off 4 v
          = ({ s with done := s.done && !v.getLsbD 1, ovr := s.ovr && !v.getLsbD 2 }, .writeOk))
      ∧ (readOnlyOffset off.toNat ∨ reservedOffset off.toNat → memWrite s off 4 v = (s, .writeOk))

/-- 20_memory.md R56, 00_scope.md R17: no transaction changes an input, a result or the command of a command in flight;
only CTRL.IE, DONE, OVR and the response can change. -/
def Obligations.InFlightStateIsStable : Prop :=
  ∀ (s t : State) (b : Transaction) (es : List Event), s.busy = true → s.events = .bus b :: es → step s = .next t →
    t = { s with ie := t.ie, done := t.done, ovr := t.ovr, response := t.response, events := es }

/-- 10_state.md R27: a CMD write is accepted while idle, its command decoded from pend at completion, and dropped while
busy; CMD reads 0; reset leaves no command pending. -/
def Obligations.CmdWriteAcceptedOrDropped : Prop :=
  ∀ (s : State) (v : Word),
    (s.busy = false → memWrite s 0x00C 4 v = ({ s with pend := v, busy := true, done := false }, .writeOk)
      ∧ ∀ i, decode v = .ok i →
        engineTurn { s with pend := v, busy := true, done := false }
          = exec i { s with pend := v, busy := true, done := false })
      ∧ (s.busy = true → memWrite s 0x00C 4 v = ({ s with ovr := true }, .writeOk))
      ∧ memRead s 0x00C 4 = .readOk 0 ∧ State.reset.busy = false

/-- 10_state.md R26: a STATUS write clears DONE and OVR by writing 1, together or apart, and nothing else changes. -/
def Obligations.StatusWriteOneToClear : Prop :=
  ∀ (s : State) (v : Word), ∃ t, memWrite s 0x008 4 v = (t, .writeOk)
    ∧ t = { s with done := t.done, ovr := t.ovr }
    ∧ t.done = (if v.getLsbD 1 then false else s.done) ∧ t.ovr = (if v.getLsbD 2 then false else s.ovr)

/-- 60_exceptions.md R183, R184: the interrupt output is DONE and IE; what raises and what clears it. -/
def Obligations.InterruptLevel : Prop :=
  ∀ (s t : State) (v : Word),
    s.irq = (s.done && s.ie)
      ∧ (s.busy = true → engineTurn s = .next t → t.irq = s.ie)
      ∧ (v.getLsbD 1 = true → (memWrite s 0x008 4 v).1.irq = false)
      ∧ (memWrite s 0x004 4 v).1.irq = (s.done && v.getLsbD 0) ∧ (memWrite s 0x004 4 v).1.done = s.done
      ∧ (s.busy = false → (memWrite s 0x00C 4 v).1.irq = false) ∧ State.reset.irq = false

/-- 20_memory.md R55, 10_state.md R23: a reserved offset reads 0 and ignores writes, an RO register ignores writes; both
without an error and without OVR. -/
def Obligations.ReservedAndReadOnlyIgnoreWrites : Prop :=
  ∀ (s : State) (off : Offset) (v : Word), off.toNat % 4 = 0 →
    (reservedOffset off.toNat → memRead s off 4 = .readOk 0 ∧ memWrite s off 4 v = (s, .writeOk))
      ∧ (readOnlyOffset off.toNat → memWrite s off 4 v = (s, .writeOk))

/-- 20_memory.md R53, R63: a write to an RW register that is not dropped, followed by a read of it, returns the written
value masked to its used bits; every other register reads as before, and nothing but the fields of RW registers can
change. -/
def Obligations.WriteThenReadBack : Prop :=
  ∀ (s : State) (r : Reg) (v : Word), Memory.wf s.mem → r.access = .rw → (s.busy = false ∨ r = .ctrl) →
    ∃ t, memWrite s (BitVec.ofNat 9 r.addr) 4 v = (t, .writeOk)
      ∧ memRead t (BitVec.ofNat 9 r.addr) 4 = .readOk (v &&& r.usedBits)
      ∧ (∀ r' : Reg, r' ≠ r → memRead t (BitVec.ofNat 9 r'.addr) 4 = memRead s (BitVec.ofNat 9 r'.addr) 4)
      ∧ (r = .ctrl → t = { s with ie := v.getLsbD 0 })
      ∧ (r = .secretLen → t = { s with secretLen := v.extractLsb' 0 16 })
      ∧ (r = .keyLen → t = { s with keyLen := v.extractLsb' 0 16 })
      ∧ (r = .msgLen → t = { s with msgLen := v.extractLsb' 0 16 })
      ∧ (r = .timeLo → t = { s with timeLo := v }) ∧ (r = .timeHi → t = { s with timeHi := v })
      ∧ (r = .bin → t = { s with bin := v })
      ∧ t = { s with ie := t.ie, secretLen := t.secretLen, keyLen := t.keyLen, msgLen := t.msgLen, timeLo := t.timeLo, timeHi := t.timeHi, bin := t.bin, mem := t.mem }

/-- 20_memory.md R53, 10_state.md R30: a buffer-word write sets the four bytes at its own offset, big-endian, and every
other byte and every register is unchanged. -/
def Obligations.BufferWordWriteFrame : Prop :=
  ∀ (s : State) (off : Offset) (v : Word), Memory.wf s.mem → s.busy = false → bufferWordOffset off.toNat →
    ∃ t, memWrite s off 4 v = (t, .writeOk) ∧ t = { s with mem := t.mem }
      ∧ (∀ j, j < 4 → (Memory.read t.mem (off.toNat + j)).toNat = v.toNat / 2 ^ (24 - 8 * j) % 256)
      ∧ ∀ a, a < off.toNat ∨ off.toNat + 4 ≤ a → Memory.read t.mem a = Memory.read s.mem a

/-- 10_state.md R22: every register stands at its own word-aligned offset of the window and nothing else stands there. -/
def Obligations.RegisterMapBothWays : Prop :=
  (∀ r : Reg, registerAt r.addr = some r ∧ r.addr % 4 = 0 ∧ r.addr < 512)
    ∧ ∀ (a : Nat) (r : Reg), registerAt a = some r → r.addr = a

/-- 10_state.md R26, 60_exceptions.md R182: OVR rises only by a dropped write, and by every one. -/
def Obligations.OvrRisesOnlyByDroppedWrite : Prop :=
  ∀ s t : State, step s = .next t →
    (t.ovr = true → s.ovr = true ∨ ∃ b es, s.events = .bus b :: es ∧ dropped s b = true)
      ∧ ∀ b es, s.events = .bus b :: es → dropped s b = true → t.ovr = true

/-- 10_state.md R36, 00_scope.md R18: a command in flight ends only by its completion, which sets DONE, or by a reset. -/
def Obligations.InFlightEndsByCompletionOrReset : Prop :=
  ∀ s t : State, s.busy = true → step s = .next t → t.busy = false →
    (t.done = true ∧ (s.events = [] ∨ ∃ es, s.events = .engine :: es)) ∨ ∃ es, s.events = .reset :: es

/-- 20_memory.md R51: the window stands at a multiple of 512 and the block decodes offset bits [8:0] alone, whatever BASE
is (a free value of Config, notes/assumptions/5.md). -/
def Obligations.WindowDecodesLowBits : Prop :=
  Config.base % 512 = 0 ∧ ∀ off : Offset, busOffset (platformAddr off) = off

/-! ### Host programs -/

/-- 30_encoding.md R86: CMD issues the command, ACK clears DONE and OVR, SETTIME sets TIME; READB reads the buffer's words
and WAIT reads STATUS again for as long as bit 0 of the value read is 1. Nothing else changes but the response (the
model's own field, notes/assumptions/3.md). WAIT goes on through n polls that find the command in flight and ends at the
first poll after the engine's turn, for every n (LATENCY is open, notes/assumptions/15.md). -/
def Obligations.PseudoInstructionEffects : Prop :=
  ∀ (s : State) (i : Instr) (T : Nat),
    (s.busy = false → runPseudo (.cmd i) s
      = { s with pend := encode i, busy := true, done := false, response := some .writeOk })
      ∧ runPseudo .ack s = { s with done := false, ovr := false, response := some .writeOk }
      ∧ (s.busy = false → T < 2 ^ 64 → timeOf (runPseudo (.setTime T) s) = T
        ∧ runPseudo (.setTime T) s = { s with timeLo := (runPseudo (.setTime T) s).timeLo, timeHi := (runPseudo (.setTime T) s).timeHi, response := some .writeOk })
      ∧ (∀ rest : List HostLine, hostTurn (Pseudo.wait.expand ++ rest) s
        = (if s.busy then Pseudo.wait.expand ++ rest else rest, { s with response := some (memRead s 0x008 4) }))
      ∧ (s.busy = true → ∀ n : Nat, ∃ t,
        hostRun (List.replicate n .host ++ [.other .engine, .host]) Pseudo.wait.expand s = .next ([], t)
          ∧ t.busy = false ∧ t.done = true
          ∧ hostRun (List.replicate n .host) Pseudo.wait.expand s = .next (Pseudo.wait.expand, if n = 0 then s else { s with response := some (memRead s 0x008 4) }))
      ∧ ∀ (b : Buffer) (n : Nat), n ≤ b.capacity →
        (∀ w, w < (n + 3) / 4 → ∃ off, (Pseudo.readB b n).expand[w]? = some (.once (.rd off)) ∧ off.toNat = b.base + 4 * w)
          ∧ (Pseudo.readB b n).expand.length = (n + 3) / 4
          ∧ runPseudo (.readB b n) s = { s with response := (runPseudo (.readB b n) s).response }

/-- 30_encoding.md R86, 10_state.md R30: LOADB puts the byte string into the buffer, byte i at index i, zeros up to the
end of its last word, and leaves every other byte alone. -/
def Obligations.LoadbLoadsTheBytes : Prop :=
  ∀ (s : State) (b : Buffer) (bs : Bytes), Memory.wf s.mem → s.busy = false → bs.length ≤ b.capacity →
    let t := runPseudo (.loadB b bs) s
    (∀ i, i < 4 * ((bs.length + 3) / 4) → Memory.read t.mem (b.base + i) = bs.getD i 0x00)
      ∧ ∀ a, a < b.base ∨ b.base + 4 * ((bs.length + 3) / 4) ≤ a → Memory.read t.mem a = Memory.read s.mem a

/-! ### Whole-machine rules -/

/-- The reset state meets the invariant. The register values are those of 10_state.md R40; that memory is a list in
canonical form, empty at reset, is the model's choice (notes/assumptions/8.md). -/
def Obligations.ResetMeetsInvariant : Prop := State.reset.Inv

/-- Every step from every state keeps the invariant: memory canonical and only buffer bytes in it, never BUSY and DONE
together, TREM at most 30, the code registers in agreement, TSTEP below 2^60. The canonical form is the model's choice
(notes/assumptions/8.md). -/
def Obligations.StepKeepsInvariant : Prop :=
  ∀ s t : State, s.Inv → step s = .next t → t.Inv

/-- 00_scope.md R19: every issued command completes, unless a reset comes: after at most as many steps as there are
events, the block stands with the same command still in flight and the next step completes it, with ERR = OK or with
an error and nothing written but STATUS. That a listed engine turn or the end of the list is when it completes is the
model's choice (notes/assumptions/1.md, 2.md). -/
def Obligations.IssuedCommandCompletes : Prop :=
  ∀ s : State, s.busy = true → (∀ e ∈ s.events, e ≠ .reset) →
    ∃ (k : Nat) (u t : State), k ≤ s.events.length ∧ Host.Core.run Sys2Proof.core k s = .next u
      ∧ u.busy = true ∧ u.pend = s.pend ∧ step u = .next t ∧ t.busy = false ∧ t.done = true
      ∧ (t.err = .ok ∨ t = { onlyStatus u t.err with events := t.events })
end

