-- ==== Sys2Proof/Laws/ByteOrder.lean ====
section
/-! SUPPORT. The big-endian helpers: lengths, bytes of a word, word of its bytes, values as numbers. -/

namespace Sys2Proof.Machine

@[simp] theorem length_be32bytes (w : Word) : (be32bytes w).length = 4 := rfl

@[simp] theorem length_be64bytes (v : Nat) : (be64bytes v).length = 8 := by simp [be64bytes]

@[simp] theorem length_zeros (n : Nat) : (zeros n).length = n := by simp [zeros]

@[simp] theorem length_padTo (n : Nat) (s : Bytes) : (padTo n s).length = n := by simp [padTo]

theorem getD_padTo {n i : Nat} (s : Bytes) (h : i < n) : (padTo n s).getD i 0 = s.getD i 0 := by
  simp [padTo, List.getD, h]

/-- Padding a string of the full length changes nothing. -/
theorem padTo_of_length {n : Nat} {s : Bytes} (h : s.length = n) : padTo n s = s := by
  subst h
  refine List.ext_getElem (by simp) fun i h1 h2 => ?_
  simp [padTo, List.getD, h2]

theorem padTo_take {n k : Nat} {s : Bytes} (hs : s.length ≤ n) (hk : k = s.length) : (padTo n s).take k = s := by
  subst hk
  refine List.ext_getElem (by simp [hs]) fun i h1 h2 => ?_
  simp [padTo, List.getD, h2]

theorem getD_be64bytes (v : Nat) {i : Nat} (h : i < 8) :
    (be64bytes v).getD i 0 = BitVec.ofNat 8 (v >>> (8 * (7 - i))) := by
  simp [be64bytes, List.getD, h]

/-- The eight bytes, written out. -/
theorem be64bytes_eq (v : Nat) :
    be64bytes v = [BitVec.ofNat 8 (v >>> 56), BitVec.ofNat 8 (v >>> 48), BitVec.ofNat 8 (v >>> 40),
      BitVec.ofNat 8 (v >>> 32), BitVec.ofNat 8 (v >>> 24), BitVec.ofNat 8 (v >>> 16), BitVec.ofNat 8 (v >>> 8),
      BitVec.ofNat 8 (v >>> 0)] := rfl

/-- A byte past the end of a string is taken as 0x00. -/
theorem getD_eq_ite (s : Bytes) (i : Nat) : s.getD i 0 = if i < s.length then s.getD i 0 else 0x00 := by
  split
  · rfl
  · rename_i h
    simp [List.getD, List.getElem?_eq_none (Nat.le_of_not_lt h)]

/-- The word of four bytes, as a number. -/
theorem toNat_be32 (b0 b1 b2 b3 : Byte) :
    (be32 b0 b1 b2 b3).toNat = b0.toNat * 2 ^ 24 + b1.toNat * 2 ^ 16 + b2.toNat * 2 ^ 8 + b3.toNat := by
  have h0 := b0.isLt
  have h1 := b1.isLt
  have h2 := b2.isLt
  have h3 := b3.isLt
  have e : ∀ (b : Byte) (n : Nat), n ≤ 24 → (b.setWidth 32 <<< n).toNat = b.toNat <<< n := by
    intro b n hn
    have hb := b.isLt
    have hp : 2 ^ n ≤ 2 ^ 24 := Nat.pow_le_pow_right (by omega) hn
    have : b.toNat * 2 ^ n < 2 ^ 32 := by nlinarith
    rw [BitVec.toNat_shiftLeft, BitVec.toNat_setWidth, Nat.mod_eq_of_lt (a := b.toNat) (by omega),
      Nat.mod_eq_of_lt (by rwa [Nat.shiftLeft_eq])]
  rw [be32, BitVec.toNat_or, BitVec.toNat_or, BitVec.toNat_or, e b0 24 (by omega), e b1 16 (by omega), e b2 8 (by omega),
    BitVec.toNat_setWidth, Nat.mod_eq_of_lt (a := b3.toNat) (by omega)]
  have e1 : b1.toNat <<< 16 < 2 ^ 24 := by rw [Nat.shiftLeft_eq]; omega
  have e2 : b2.toNat <<< 8 < 2 ^ 16 := by rw [Nat.shiftLeft_eq]; omega
  rw [← Nat.shiftLeft_add_eq_or_of_lt e1]
  have k1 : b0.toNat <<< 24 + b1.toNat <<< 16 = (b0.toNat * 2 ^ 8 + b1.toNat) <<< 16 := by
    simp only [Nat.shiftLeft_eq]; omega
  rw [k1, ← Nat.shiftLeft_add_eq_or_of_lt e2]
  have k2 : (b0.toNat * 2 ^ 8 + b1.toNat) <<< 16 + b2.toNat <<< 8 = (b0.toNat * 2 ^ 16 + b1.toNat * 2 ^ 8 + b2.toNat) <<< 8 := by
    simp only [Nat.shiftLeft_eq]; omega
  rw [k2, ← Nat.shiftLeft_add_eq_or_of_lt h3]
  simp only [Nat.shiftLeft_eq]
  omega
/-- The word of a word's bytes is the word. -/
theorem be32_be32bytes (w : Word) :
    be32 (w.extractLsb' 24 8) (w.extractLsb' 16 8) (w.extractLsb' 8 8) (w.extractLsb' 0 8) = w := by
  have h := w.isLt
  refine BitVec.eq_of_toNat_eq ?_
  simp only [toNat_be32, BitVec.extractLsb'_toNat, Nat.shiftRight_eq_div_pow]
  omega

/-- The bytes of the word of four bytes are those bytes. -/
theorem be32bytes_be32 (b0 b1 b2 b3 : Byte) : be32bytes (be32 b0 b1 b2 b3) = [b0, b1, b2, b3] := by
  have h0 := b0.isLt
  have h1 := b1.isLt
  have h2 := b2.isLt
  have h3 := b3.isLt
  simp only [be32bytes, List.cons.injEq, and_true]
  refine ⟨?_, ?_, ?_, ?_⟩ <;> refine BitVec.eq_of_toNat_eq ?_ <;>
    simp only [BitVec.extractLsb'_toNat, toNat_be32, Nat.shiftRight_eq_div_pow] <;> omega

end Sys2Proof.Machine
end

