-- ==== Sys2Proof/Laws/Memory.lean ====
section
/-! SUPPORT. What memory operations can do: read after write, the frame of a write, and that every operation keeps the
canonical form and the listed addresses. -/

namespace Sys2Proof.Machine

/-! ### Reading -/

theorem Memory.read_nil (a : Nat) : Memory.read [] a = Memory.unlisted := rfl

theorem Memory.read_cons (b : Nat) (v : Byte) (m : Memory) (a : Nat) :
    Memory.read ((b, v) :: m) a = if a = b then v else Memory.read m a := rfl

/-- An address below every listed one reads as unlisted. -/
theorem Memory.read_of_lt {m : Memory} {a : Nat} (h : ∀ c ∈ m, a < c.1) : Memory.read m a = Memory.unlisted := by
  induction m with
  | nil => rfl
  | cons c m ih =>
    have hc := h c (by simp)
    rw [Memory.read_cons c.1 c.2, if_neg (by omega)]
    exact ih fun d hd => h d (by simp [hd])

theorem Memory.wf_cons {c : Nat × Byte} {m : Memory} :
    Memory.wf (c :: m) ↔ (∀ d ∈ m, c.1 < d.1) ∧ c.2 ≠ Memory.unlisted ∧ Memory.wf m := by
  simp only [Memory.wf, List.pairwise_cons, List.forall_mem_cons]
  tauto

theorem Memory.wf_nil : Memory.wf [] := by simp [Memory.wf]

/-! ### One byte written -/

/-- Every entry after a write is the new one or was there before. -/
theorem Memory.mem_write {m : Memory} {a : Nat} {v : Byte} {c : Nat × Byte} (h : c ∈ Memory.write m a v) :
    (c = (a, v) ∧ v ≠ Memory.unlisted) ∨ c ∈ m := by
  induction m with
  | nil =>
    unfold Memory.write at h
    split at h <;> simp_all
  | cons d m ih =>
    obtain ⟨b, w⟩ := d
    unfold Memory.write at h
    split at h
    · split at h <;> simp_all
    · split at h
      · split at h
        · exact .inr (by simp [h])
        · simp only [List.mem_cons] at h ⊢
          tauto
      · simp only [List.mem_cons] at h ⊢
        rcases h with h | h
        · exact .inr (.inl h)
        · rcases ih h with h | h
          · exact .inl h
          · exact .inr (.inr h)

/-- A write leaves every other address alone. -/
theorem Memory.read_write_ne {m : Memory} {a b : Nat} {v : Byte} (h : b ≠ a) :
    Memory.read (Memory.write m a v) b = Memory.read m b := by
  induction m with
  | nil =>
    unfold Memory.write
    split
    · rfl
    · rw [Memory.read_cons, if_neg h]
  | cons c m ih =>
    obtain ⟨d, w⟩ := c
    unfold Memory.write
    split
    · split
      · rfl
      · rw [Memory.read_cons a, if_neg h]
    · split
      · rename_i hd
        subst hd
        split
        · rw [Memory.read_cons, if_neg h]
        · rw [Memory.read_cons, Memory.read_cons, if_neg h, if_neg h]
      · rw [Memory.read_cons, Memory.read_cons, ih]

/-- A read after a write to the same address gives the value written. -/
theorem Memory.read_write_eq {m : Memory} (hm : Memory.wf m) (a : Nat) (v : Byte) :
    Memory.read (Memory.write m a v) a = v := by
  induction m with
  | nil =>
    unfold Memory.write
    split
    · rename_i hv
      exact hv.symm
    · rw [Memory.read_cons, if_pos rfl]
  | cons c m ih =>
    obtain ⟨b, w⟩ := c
    obtain ⟨hlt, -, hm'⟩ := Memory.wf_cons.1 hm
    unfold Memory.write
    split
    · rename_i hab
      split
      · rename_i hv
        subst hv
        refine Memory.read_of_lt fun d hd => ?_
        rcases List.mem_cons.1 hd with rfl | hd
        · exact hab
        · exact Nat.lt_trans hab (hlt d hd)
      · rw [Memory.read_cons, if_pos rfl]
    · split
      · rename_i hab
        subst hab
        split
        · rename_i hv
          subst hv
          exact Memory.read_of_lt hlt
        · rw [Memory.read_cons, if_pos rfl]
      · rename_i hne
        rw [Memory.read_cons, if_neg hne]
        exact ih hm'

theorem Memory.read_write {m : Memory} (hm : Memory.wf m) (a b : Nat) (v : Byte) :
    Memory.read (Memory.write m a v) b = if b = a then v else Memory.read m b := by
  split
  · rename_i h
    subst h
    exact Memory.read_write_eq hm b v
  · rename_i h
    exact Memory.read_write_ne h

/-- A write keeps the canonical form. -/
theorem Memory.wf_write {m : Memory} (hm : Memory.wf m) (a : Nat) (v : Byte) : Memory.wf (Memory.write m a v) := by
  induction m with
  | nil =>
    unfold Memory.write
    split
    · exact Memory.wf_nil
    · rename_i hv
      exact Memory.wf_cons.2 ⟨by simp, hv, Memory.wf_nil⟩
  | cons c m ih =>
    obtain ⟨b, w⟩ := c
    obtain ⟨hlt, hw, hm'⟩ := Memory.wf_cons.1 hm
    unfold Memory.write
    split
    · rename_i hab
      split
      · exact hm
      · rename_i hv
        refine Memory.wf_cons.2 ⟨fun d hd => ?_, hv, hm⟩
        rcases List.mem_cons.1 hd with rfl | hd
        · exact hab
        · exact Nat.lt_trans hab (hlt d hd)
    · split
      · rename_i hab
        subst hab
        split
        · exact hm'
        · rename_i hv
          exact Memory.wf_cons.2 ⟨hlt, hv, hm'⟩
      · refine Memory.wf_cons.2 ⟨fun d hd => ?_, hw, ih hm'⟩
        rcases Memory.mem_write hd with ⟨rfl, -⟩ | hd
        · simp only
          omega
        · exact hlt d hd

/-! ### Byte strings written -/

theorem Memory.writeBytes_nil (m : Memory) (a : Nat) : Memory.writeBytes m a [] = m := rfl

theorem Memory.writeBytes_cons (m : Memory) (a : Nat) (b : Byte) (s : Bytes) :
    Memory.writeBytes m a (b :: s) = Memory.writeBytes (Memory.write m a b) (a + 1) s := rfl

theorem Memory.wf_writeBytes {m : Memory} (hm : Memory.wf m) (a : Nat) (s : Bytes) :
    Memory.wf (Memory.writeBytes m a s) := by
  induction s generalizing m a with
  | nil => exact hm
  | cons b s ih => exact ih (Memory.wf_write hm a b) (a + 1)

/-- A byte string written leaves every address outside it alone. -/
theorem Memory.read_writeBytes_outside {m : Memory} {a b : Nat} {s : Bytes} (h : b < a ∨ a + s.length ≤ b) :
    Memory.read (Memory.writeBytes m a s) b = Memory.read m b := by
  induction s generalizing m a with
  | nil => rfl
  | cons c s ih =>
    simp only [List.length_cons] at h
    rw [Memory.writeBytes_cons, ih (by omega), Memory.read_write_ne (by omega)]

/-- A byte string written is what is read back. -/
theorem Memory.read_writeBytes_inside {m : Memory} (hm : Memory.wf m) {a i : Nat} {s : Bytes} (h : i < s.length) :
    Memory.read (Memory.writeBytes m a s) (a + i) = s.getD i 0 := by
  induction s generalizing m a i with
  | nil => simp at h
  | cons c s ih =>
    rw [Memory.writeBytes_cons]
    cases i with
    | zero =>
      rw [Memory.read_writeBytes_outside (by omega), Nat.add_zero, Memory.read_write_eq hm]
      rfl
    | succ i =>
      have hi : i < s.length := by simpa using h
      have := ih (Memory.wf_write hm a c) (a := a + 1) hi
      rw [show a + (i + 1) = a + 1 + i by omega, this]
      rfl

/-- Every entry after a byte string is written is at one of its addresses or was there before. -/
theorem Memory.mem_writeBytes {m : Memory} {a : Nat} {s : Bytes} {c : Nat × Byte}
    (h : c ∈ Memory.writeBytes m a s) : (a ≤ c.1 ∧ c.1 < a + s.length) ∨ c ∈ m := by
  induction s generalizing m a with
  | nil => exact .inr h
  | cons b s ih =>
    rcases ih h with h | h
    · exact .inl (by simp only [List.length_cons]; omega)
    · rcases Memory.mem_write h with ⟨rfl, -⟩ | h
      · exact .inl (by simp)
      · exact .inr h

/-! ### Words and byte strings read -/

@[simp] theorem Memory.length_readBytes (m : Memory) (a n : Nat) : (Memory.readBytes m a n).length = n := by
  simp [Memory.readBytes]

theorem Memory.getD_readBytes (m : Memory) (a : Nat) {n i : Nat} (h : i < n) :
    (Memory.readBytes m a n).getD i 0 = Memory.read m (a + i) := by
  simp [Memory.readBytes, List.getD, h]

/-- Two byte strings read are equal when their bytes are. -/
theorem Memory.readBytes_congr {m m' : Memory} {a n : Nat}
    (h : ∀ i, i < n → Memory.read m (a + i) = Memory.read m' (a + i)) :
    Memory.readBytes m a n = Memory.readBytes m' a n := by
  refine List.map_congr_left fun i hi => h i (List.mem_range.1 hi)

/-- A byte string written is read back whole. -/
theorem Memory.readBytes_writeBytes {m : Memory} (hm : Memory.wf m) (a : Nat) (s : Bytes) :
    Memory.readBytes (Memory.writeBytes m a s) a s.length = s := by
  refine List.ext_getElem (by simp) fun i h1 h2 => ?_
  simp only [Memory.readBytes, List.getElem_map, List.getElem_range]
  rw [Memory.read_writeBytes_inside hm h2]
  simp [List.getD, h2]

theorem Memory.readWord_congr {m m' : Memory} {a : Nat}
    (h : ∀ i, i < 4 → Memory.read m (a + i) = Memory.read m' (a + i)) :
    Memory.readWord m a = Memory.readWord m' a := by
  have h0 := h 0 (by omega)
  have h1 := h 1 (by omega)
  have h2 := h 2 (by omega)
  have h3 := h 3 (by omega)
  simp only [Nat.add_zero] at h0
  simp only [Memory.readWord, h0, h1, h2, h3]

theorem Memory.wf_writeWord {m : Memory} (hm : Memory.wf m) (a : Nat) (v : Word) :
    Memory.wf (Memory.writeWord m a v) := Memory.wf_writeBytes hm a _

/-- A buffer word written leaves every address outside its four bytes alone. -/
theorem Memory.read_writeWord_outside {m : Memory} {a b : Nat} {v : Word} (h : b < a ∨ a + 4 ≤ b) :
    Memory.read (Memory.writeWord m a v) b = Memory.read m b :=
  Memory.read_writeBytes_outside (by simpa using h)

/-- The four bytes of a buffer word written. -/
theorem Memory.read_writeWord_inside {m : Memory} (hm : Memory.wf m) {a j : Nat} (v : Word) (h : j < 4) :
    Memory.read (Memory.writeWord m a v) (a + j) = (be32bytes v).getD j 0 :=
  Memory.read_writeBytes_inside hm (by simpa using h)

/-- A buffer word written is the word read back. -/
theorem Memory.readWord_writeWord {m : Memory} (hm : Memory.wf m) (a : Nat) (v : Word) :
    Memory.readWord (Memory.writeWord m a v) a = v := by
  have h0 := Memory.read_writeWord_inside hm (a := a) (j := 0) v (by omega)
  rw [Nat.add_zero] at h0
  rw [Memory.readWord, h0, Memory.read_writeWord_inside hm v (by omega), Memory.read_writeWord_inside hm v (by omega),
    Memory.read_writeWord_inside hm v (by omega)]
  exact be32_be32bytes v

/-- Memories in canonical form that read alike are the same list. -/
theorem Memory.ext {m m' : Memory} (hm : Memory.wf m) (hm' : Memory.wf m')
    (h : ∀ a, Memory.read m a = Memory.read m' a) : m = m' := by
  induction m generalizing m' with
  | nil =>
    cases m' with
    | nil => rfl
    | cons c m' =>
      obtain ⟨-, hc, -⟩ := Memory.wf_cons.1 hm'
      have := h c.1
      rw [Memory.read_nil, Memory.read_cons c.1 c.2, if_pos rfl] at this
      exact absurd this.symm hc
  | cons c m ih =>
    obtain ⟨hlt, hc, hm1⟩ := Memory.wf_cons.1 hm
    cases m' with
    | nil =>
      have := h c.1
      rw [Memory.read_nil, Memory.read_cons c.1 c.2, if_pos rfl] at this
      exact absurd this hc
    | cons d m' =>
      obtain ⟨hlt', hd, hm1'⟩ := Memory.wf_cons.1 hm'
      obtain ⟨a, v⟩ := c
      obtain ⟨b, w⟩ := d
      simp only at *
      have hab : a = b := by
        rcases Nat.lt_trichotomy a b with hab | hab | hab
        · have := h a
          rw [Memory.read_cons, if_pos rfl, Memory.read_cons, if_neg (by omega),
            Memory.read_of_lt fun e he => Nat.lt_trans hab (hlt' e he)] at this
          exact absurd this hc
        · exact hab
        · have := h b
          rw [Memory.read_cons, if_neg (by omega), Memory.read_of_lt fun e he => Nat.lt_trans hab (hlt e he),
            Memory.read_cons, if_pos rfl] at this
          exact absurd this.symm hd
      subst hab
      have hvw : v = w := by simpa [Memory.read_cons] using h a
      subst hvw
      refine congrArg _ (ih hm1 hm1' fun e => ?_)
      by_cases he : e = a
      · subst he
        rw [Memory.read_of_lt hlt, Memory.read_of_lt hlt']
      · simpa [Memory.read_cons, he] using h e

end Sys2Proof.Machine
end

