-- ==== Sys2Proof/Laws/State.lean ====
section
/-! SUPPORT. One lemma per field of State per named update, true by rfl: what the update leaves in that field
(10_state.md R37). -/

namespace Sys2Proof.Machine

variable (s : State)

/-! ### State.complete -/

@[simp] theorem State.complete_ie (code : ErrCode) : (s.complete code).ie = s.ie := rfl
@[simp] theorem State.complete_busy (code : ErrCode) : (s.complete code).busy = false := rfl
@[simp] theorem State.complete_done (code : ErrCode) : (s.complete code).done = true := rfl
@[simp] theorem State.complete_ovr (code : ErrCode) : (s.complete code).ovr = s.ovr := rfl
@[simp] theorem State.complete_err (code : ErrCode) : (s.complete code).err = code := rfl
@[simp] theorem State.complete_pend (code : ErrCode) : (s.complete code).pend = s.pend := rfl
@[simp] theorem State.complete_secretLen (code : ErrCode) : (s.complete code).secretLen = s.secretLen := rfl
@[simp] theorem State.complete_keyLen (code : ErrCode) : (s.complete code).keyLen = s.keyLen := rfl
@[simp] theorem State.complete_msgLen (code : ErrCode) : (s.complete code).msgLen = s.msgLen := rfl
@[simp] theorem State.complete_timeLo (code : ErrCode) : (s.complete code).timeLo = s.timeLo := rfl
@[simp] theorem State.complete_timeHi (code : ErrCode) : (s.complete code).timeHi = s.timeHi := rfl
@[simp] theorem State.complete_tstepLo (code : ErrCode) : (s.complete code).tstepLo = s.tstepLo := rfl
@[simp] theorem State.complete_tstepHi (code : ErrCode) : (s.complete code).tstepHi = s.tstepHi := rfl
@[simp] theorem State.complete_trem (code : ErrCode) : (s.complete code).trem = s.trem := rfl
@[simp] theorem State.complete_offset (code : ErrCode) : (s.complete code).offset = s.offset := rfl
@[simp] theorem State.complete_bin (code : ErrCode) : (s.complete code).bin = s.bin := rfl
@[simp] theorem State.complete_codeNum (code : ErrCode) : (s.complete code).codeNum = s.codeNum := rfl
@[simp] theorem State.complete_code0 (code : ErrCode) : (s.complete code).code0 = s.code0 := rfl
@[simp] theorem State.complete_code1 (code : ErrCode) : (s.complete code).code1 = s.code1 := rfl
@[simp] theorem State.complete_mem (code : ErrCode) : (s.complete code).mem = s.mem := rfl
@[simp] theorem State.complete_response (code : ErrCode) : (s.complete code).response = s.response := rfl
@[simp] theorem State.complete_events (code : ErrCode) : (s.complete code).events = s.events := rfl

/-! ### State.clearStatus -/

@[simp] theorem State.clearStatus_ie (v : Word) : (s.clearStatus v).ie = s.ie := rfl
@[simp] theorem State.clearStatus_busy (v : Word) : (s.clearStatus v).busy = s.busy := rfl
@[simp] theorem State.clearStatus_done (v : Word) : (s.clearStatus v).done = (s.done && !v.getLsbD 1) := rfl
@[simp] theorem State.clearStatus_ovr (v : Word) : (s.clearStatus v).ovr = (s.ovr && !v.getLsbD 2) := rfl
@[simp] theorem State.clearStatus_err (v : Word) : (s.clearStatus v).err = s.err := rfl
@[simp] theorem State.clearStatus_pend (v : Word) : (s.clearStatus v).pend = s.pend := rfl
@[simp] theorem State.clearStatus_secretLen (v : Word) : (s.clearStatus v).secretLen = s.secretLen := rfl
@[simp] theorem State.clearStatus_keyLen (v : Word) : (s.clearStatus v).keyLen = s.keyLen := rfl
@[simp] theorem State.clearStatus_msgLen (v : Word) : (s.clearStatus v).msgLen = s.msgLen := rfl
@[simp] theorem State.clearStatus_timeLo (v : Word) : (s.clearStatus v).timeLo = s.timeLo := rfl
@[simp] theorem State.clearStatus_timeHi (v : Word) : (s.clearStatus v).timeHi = s.timeHi := rfl
@[simp] theorem State.clearStatus_tstepLo (v : Word) : (s.clearStatus v).tstepLo = s.tstepLo := rfl
@[simp] theorem State.clearStatus_tstepHi (v : Word) : (s.clearStatus v).tstepHi = s.tstepHi := rfl
@[simp] theorem State.clearStatus_trem (v : Word) : (s.clearStatus v).trem = s.trem := rfl
@[simp] theorem State.clearStatus_offset (v : Word) : (s.clearStatus v).offset = s.offset := rfl
@[simp] theorem State.clearStatus_bin (v : Word) : (s.clearStatus v).bin = s.bin := rfl
@[simp] theorem State.clearStatus_codeNum (v : Word) : (s.clearStatus v).codeNum = s.codeNum := rfl
@[simp] theorem State.clearStatus_code0 (v : Word) : (s.clearStatus v).code0 = s.code0 := rfl
@[simp] theorem State.clearStatus_code1 (v : Word) : (s.clearStatus v).code1 = s.code1 := rfl
@[simp] theorem State.clearStatus_mem (v : Word) : (s.clearStatus v).mem = s.mem := rfl
@[simp] theorem State.clearStatus_response (v : Word) : (s.clearStatus v).response = s.response := rfl
@[simp] theorem State.clearStatus_events (v : Word) : (s.clearStatus v).events = s.events := rfl

/-! ### State.accept -/

@[simp] theorem State.accept_ie (v : Word) : (s.accept v).ie = s.ie := rfl
@[simp] theorem State.accept_busy (v : Word) : (s.accept v).busy = true := rfl
@[simp] theorem State.accept_done (v : Word) : (s.accept v).done = false := rfl
@[simp] theorem State.accept_ovr (v : Word) : (s.accept v).ovr = s.ovr := rfl
@[simp] theorem State.accept_err (v : Word) : (s.accept v).err = s.err := rfl
@[simp] theorem State.accept_pend (v : Word) : (s.accept v).pend = v := rfl
@[simp] theorem State.accept_secretLen (v : Word) : (s.accept v).secretLen = s.secretLen := rfl
@[simp] theorem State.accept_keyLen (v : Word) : (s.accept v).keyLen = s.keyLen := rfl
@[simp] theorem State.accept_msgLen (v : Word) : (s.accept v).msgLen = s.msgLen := rfl
@[simp] theorem State.accept_timeLo (v : Word) : (s.accept v).timeLo = s.timeLo := rfl
@[simp] theorem State.accept_timeHi (v : Word) : (s.accept v).timeHi = s.timeHi := rfl
@[simp] theorem State.accept_tstepLo (v : Word) : (s.accept v).tstepLo = s.tstepLo := rfl
@[simp] theorem State.accept_tstepHi (v : Word) : (s.accept v).tstepHi = s.tstepHi := rfl
@[simp] theorem State.accept_trem (v : Word) : (s.accept v).trem = s.trem := rfl
@[simp] theorem State.accept_offset (v : Word) : (s.accept v).offset = s.offset := rfl
@[simp] theorem State.accept_bin (v : Word) : (s.accept v).bin = s.bin := rfl
@[simp] theorem State.accept_codeNum (v : Word) : (s.accept v).codeNum = s.codeNum := rfl
@[simp] theorem State.accept_code0 (v : Word) : (s.accept v).code0 = s.code0 := rfl
@[simp] theorem State.accept_code1 (v : Word) : (s.accept v).code1 = s.code1 := rfl
@[simp] theorem State.accept_mem (v : Word) : (s.accept v).mem = s.mem := rfl
@[simp] theorem State.accept_response (v : Word) : (s.accept v).response = s.response := rfl
@[simp] theorem State.accept_events (v : Word) : (s.accept v).events = s.events := rfl

/-! ### State.dropWrite -/

@[simp] theorem State.dropWrite_ie : (s.dropWrite).ie = s.ie := rfl
@[simp] theorem State.dropWrite_busy : (s.dropWrite).busy = s.busy := rfl
@[simp] theorem State.dropWrite_done : (s.dropWrite).done = s.done := rfl
@[simp] theorem State.dropWrite_ovr : (s.dropWrite).ovr = true := rfl
@[simp] theorem State.dropWrite_err : (s.dropWrite).err = s.err := rfl
@[simp] theorem State.dropWrite_pend : (s.dropWrite).pend = s.pend := rfl
@[simp] theorem State.dropWrite_secretLen : (s.dropWrite).secretLen = s.secretLen := rfl
@[simp] theorem State.dropWrite_keyLen : (s.dropWrite).keyLen = s.keyLen := rfl
@[simp] theorem State.dropWrite_msgLen : (s.dropWrite).msgLen = s.msgLen := rfl
@[simp] theorem State.dropWrite_timeLo : (s.dropWrite).timeLo = s.timeLo := rfl
@[simp] theorem State.dropWrite_timeHi : (s.dropWrite).timeHi = s.timeHi := rfl
@[simp] theorem State.dropWrite_tstepLo : (s.dropWrite).tstepLo = s.tstepLo := rfl
@[simp] theorem State.dropWrite_tstepHi : (s.dropWrite).tstepHi = s.tstepHi := rfl
@[simp] theorem State.dropWrite_trem : (s.dropWrite).trem = s.trem := rfl
@[simp] theorem State.dropWrite_offset : (s.dropWrite).offset = s.offset := rfl
@[simp] theorem State.dropWrite_bin : (s.dropWrite).bin = s.bin := rfl
@[simp] theorem State.dropWrite_codeNum : (s.dropWrite).codeNum = s.codeNum := rfl
@[simp] theorem State.dropWrite_code0 : (s.dropWrite).code0 = s.code0 := rfl
@[simp] theorem State.dropWrite_code1 : (s.dropWrite).code1 = s.code1 := rfl
@[simp] theorem State.dropWrite_mem : (s.dropWrite).mem = s.mem := rfl
@[simp] theorem State.dropWrite_response : (s.dropWrite).response = s.response := rfl
@[simp] theorem State.dropWrite_events : (s.dropWrite).events = s.events := rfl

/-! ### State.putKey -/

@[simp] theorem State.putKey_ie (k : Bytes) : (s.putKey k).ie = s.ie := by simp only [State.putKey]
@[simp] theorem State.putKey_busy (k : Bytes) : (s.putKey k).busy = s.busy := by simp only [State.putKey]
@[simp] theorem State.putKey_done (k : Bytes) : (s.putKey k).done = s.done := by simp only [State.putKey]
@[simp] theorem State.putKey_ovr (k : Bytes) : (s.putKey k).ovr = s.ovr := by simp only [State.putKey]
@[simp] theorem State.putKey_err (k : Bytes) : (s.putKey k).err = s.err := by simp only [State.putKey]
@[simp] theorem State.putKey_pend (k : Bytes) : (s.putKey k).pend = s.pend := by simp only [State.putKey]
@[simp] theorem State.putKey_secretLen (k : Bytes) : (s.putKey k).secretLen = s.secretLen := by simp only [State.putKey]
@[simp] theorem State.putKey_keyLen (k : Bytes) : (s.putKey k).keyLen = BitVec.ofNat 16 k.length := by simp only [State.putKey]
@[simp] theorem State.putKey_msgLen (k : Bytes) : (s.putKey k).msgLen = s.msgLen := by simp only [State.putKey]
@[simp] theorem State.putKey_timeLo (k : Bytes) : (s.putKey k).timeLo = s.timeLo := by simp only [State.putKey]
@[simp] theorem State.putKey_timeHi (k : Bytes) : (s.putKey k).timeHi = s.timeHi := by simp only [State.putKey]
@[simp] theorem State.putKey_tstepLo (k : Bytes) : (s.putKey k).tstepLo = s.tstepLo := by simp only [State.putKey]
@[simp] theorem State.putKey_tstepHi (k : Bytes) : (s.putKey k).tstepHi = s.tstepHi := by simp only [State.putKey]
@[simp] theorem State.putKey_trem (k : Bytes) : (s.putKey k).trem = s.trem := by simp only [State.putKey]
@[simp] theorem State.putKey_offset (k : Bytes) : (s.putKey k).offset = s.offset := by simp only [State.putKey]
@[simp] theorem State.putKey_bin (k : Bytes) : (s.putKey k).bin = s.bin := by simp only [State.putKey]
@[simp] theorem State.putKey_codeNum (k : Bytes) : (s.putKey k).codeNum = s.codeNum := by simp only [State.putKey]
@[simp] theorem State.putKey_code0 (k : Bytes) : (s.putKey k).code0 = s.code0 := by simp only [State.putKey]
@[simp] theorem State.putKey_code1 (k : Bytes) : (s.putKey k).code1 = s.code1 := by simp only [State.putKey]
@[simp] theorem State.putKey_mem (k : Bytes) : (s.putKey k).mem = Memory.writeBytes s.mem Config.keyBase (padTo Config.keyMax k) := by simp only [State.putKey]
@[simp] theorem State.putKey_response (k : Bytes) : (s.putKey k).response = s.response := by simp only [State.putKey]
@[simp] theorem State.putKey_events (k : Bytes) : (s.putKey k).events = s.events := by simp only [State.putKey]

/-! ### State.putCounter -/

@[simp] theorem State.putCounter_ie (ts : Nat) : (s.putCounter ts).ie = s.ie := by simp only [State.putCounter]
@[simp] theorem State.putCounter_busy (ts : Nat) : (s.putCounter ts).busy = s.busy := by simp only [State.putCounter]
@[simp] theorem State.putCounter_done (ts : Nat) : (s.putCounter ts).done = s.done := by simp only [State.putCounter]
@[simp] theorem State.putCounter_ovr (ts : Nat) : (s.putCounter ts).ovr = s.ovr := by simp only [State.putCounter]
@[simp] theorem State.putCounter_err (ts : Nat) : (s.putCounter ts).err = s.err := by simp only [State.putCounter]
@[simp] theorem State.putCounter_pend (ts : Nat) : (s.putCounter ts).pend = s.pend := by simp only [State.putCounter]
@[simp] theorem State.putCounter_secretLen (ts : Nat) : (s.putCounter ts).secretLen = s.secretLen := by simp only [State.putCounter]
@[simp] theorem State.putCounter_keyLen (ts : Nat) : (s.putCounter ts).keyLen = s.keyLen := by simp only [State.putCounter]
@[simp] theorem State.putCounter_msgLen (ts : Nat) : (s.putCounter ts).msgLen = 8 := by simp only [State.putCounter]
@[simp] theorem State.putCounter_timeLo (ts : Nat) : (s.putCounter ts).timeLo = s.timeLo := by simp only [State.putCounter]
@[simp] theorem State.putCounter_timeHi (ts : Nat) : (s.putCounter ts).timeHi = s.timeHi := by simp only [State.putCounter]
@[simp] theorem State.putCounter_tstepLo (ts : Nat) : (s.putCounter ts).tstepLo = BitVec.ofNat 32 (ts % 2 ^ 32) := by simp only [State.putCounter]
@[simp] theorem State.putCounter_tstepHi (ts : Nat) : (s.putCounter ts).tstepHi = BitVec.ofNat 32 (ts >>> 32) := by simp only [State.putCounter]
@[simp] theorem State.putCounter_trem (ts : Nat) : (s.putCounter ts).trem = s.trem := by simp only [State.putCounter]
@[simp] theorem State.putCounter_offset (ts : Nat) : (s.putCounter ts).offset = s.offset := by simp only [State.putCounter]
@[simp] theorem State.putCounter_bin (ts : Nat) : (s.putCounter ts).bin = s.bin := by simp only [State.putCounter]
@[simp] theorem State.putCounter_codeNum (ts : Nat) : (s.putCounter ts).codeNum = s.codeNum := by simp only [State.putCounter]
@[simp] theorem State.putCounter_code0 (ts : Nat) : (s.putCounter ts).code0 = s.code0 := by simp only [State.putCounter]
@[simp] theorem State.putCounter_code1 (ts : Nat) : (s.putCounter ts).code1 = s.code1 := by simp only [State.putCounter]
@[simp] theorem State.putCounter_mem (ts : Nat) : (s.putCounter ts).mem = Memory.writeBytes s.mem Config.msgBase (padTo Config.msgMax (be64bytes ts)) := by simp only [State.putCounter]
@[simp] theorem State.putCounter_response (ts : Nat) : (s.putCounter ts).response = s.response := by simp only [State.putCounter]
@[simp] theorem State.putCounter_events (ts : Nat) : (s.putCounter ts).events = s.events := by simp only [State.putCounter]

/-! ### State.putDigest -/

@[simp] theorem State.putDigest_ie (d : Bytes) : (s.putDigest d).ie = s.ie := by simp only [State.putDigest]
@[simp] theorem State.putDigest_busy (d : Bytes) : (s.putDigest d).busy = s.busy := by simp only [State.putDigest]
@[simp] theorem State.putDigest_done (d : Bytes) : (s.putDigest d).done = s.done := by simp only [State.putDigest]
@[simp] theorem State.putDigest_ovr (d : Bytes) : (s.putDigest d).ovr = s.ovr := by simp only [State.putDigest]
@[simp] theorem State.putDigest_err (d : Bytes) : (s.putDigest d).err = s.err := by simp only [State.putDigest]
@[simp] theorem State.putDigest_pend (d : Bytes) : (s.putDigest d).pend = s.pend := by simp only [State.putDigest]
@[simp] theorem State.putDigest_secretLen (d : Bytes) : (s.putDigest d).secretLen = s.secretLen := by simp only [State.putDigest]
@[simp] theorem State.putDigest_keyLen (d : Bytes) : (s.putDigest d).keyLen = s.keyLen := by simp only [State.putDigest]
@[simp] theorem State.putDigest_msgLen (d : Bytes) : (s.putDigest d).msgLen = s.msgLen := by simp only [State.putDigest]
@[simp] theorem State.putDigest_timeLo (d : Bytes) : (s.putDigest d).timeLo = s.timeLo := by simp only [State.putDigest]
@[simp] theorem State.putDigest_timeHi (d : Bytes) : (s.putDigest d).timeHi = s.timeHi := by simp only [State.putDigest]
@[simp] theorem State.putDigest_tstepLo (d : Bytes) : (s.putDigest d).tstepLo = s.tstepLo := by simp only [State.putDigest]
@[simp] theorem State.putDigest_tstepHi (d : Bytes) : (s.putDigest d).tstepHi = s.tstepHi := by simp only [State.putDigest]
@[simp] theorem State.putDigest_trem (d : Bytes) : (s.putDigest d).trem = s.trem := by simp only [State.putDigest]
@[simp] theorem State.putDigest_offset (d : Bytes) : (s.putDigest d).offset = s.offset := by simp only [State.putDigest]
@[simp] theorem State.putDigest_bin (d : Bytes) : (s.putDigest d).bin = s.bin := by simp only [State.putDigest]
@[simp] theorem State.putDigest_codeNum (d : Bytes) : (s.putDigest d).codeNum = s.codeNum := by simp only [State.putDigest]
@[simp] theorem State.putDigest_code0 (d : Bytes) : (s.putDigest d).code0 = s.code0 := by simp only [State.putDigest]
@[simp] theorem State.putDigest_code1 (d : Bytes) : (s.putDigest d).code1 = s.code1 := by simp only [State.putDigest]
@[simp] theorem State.putDigest_mem (d : Bytes) : (s.putDigest d).mem = Memory.writeBytes s.mem Config.digestBase (padTo Config.digestBytes d) := by simp only [State.putDigest]
@[simp] theorem State.putDigest_response (d : Bytes) : (s.putDigest d).response = s.response := by simp only [State.putDigest]
@[simp] theorem State.putDigest_events (d : Bytes) : (s.putDigest d).events = s.events := by simp only [State.putDigest]

/-! ### State.putTruncated -/

@[simp] theorem State.putTruncated_ie (off : BitVec 4) (b : Word) : (s.putTruncated off b).ie = s.ie := rfl
@[simp] theorem State.putTruncated_busy (off : BitVec 4) (b : Word) : (s.putTruncated off b).busy = s.busy := rfl
@[simp] theorem State.putTruncated_done (off : BitVec 4) (b : Word) : (s.putTruncated off b).done = s.done := rfl
@[simp] theorem State.putTruncated_ovr (off : BitVec 4) (b : Word) : (s.putTruncated off b).ovr = s.ovr := rfl
@[simp] theorem State.putTruncated_err (off : BitVec 4) (b : Word) : (s.putTruncated off b).err = s.err := rfl
@[simp] theorem State.putTruncated_pend (off : BitVec 4) (b : Word) : (s.putTruncated off b).pend = s.pend := rfl
@[simp] theorem State.putTruncated_secretLen (off : BitVec 4) (b : Word) : (s.putTruncated off b).secretLen = s.secretLen := rfl
@[simp] theorem State.putTruncated_keyLen (off : BitVec 4) (b : Word) : (s.putTruncated off b).keyLen = s.keyLen := rfl
@[simp] theorem State.putTruncated_msgLen (off : BitVec 4) (b : Word) : (s.putTruncated off b).msgLen = s.msgLen := rfl
@[simp] theorem State.putTruncated_timeLo (off : BitVec 4) (b : Word) : (s.putTruncated off b).timeLo = s.timeLo := rfl
@[simp] theorem State.putTruncated_timeHi (off : BitVec 4) (b : Word) : (s.putTruncated off b).timeHi = s.timeHi := rfl
@[simp] theorem State.putTruncated_tstepLo (off : BitVec 4) (b : Word) : (s.putTruncated off b).tstepLo = s.tstepLo := rfl
@[simp] theorem State.putTruncated_tstepHi (off : BitVec 4) (b : Word) : (s.putTruncated off b).tstepHi = s.tstepHi := rfl
@[simp] theorem State.putTruncated_trem (off : BitVec 4) (b : Word) : (s.putTruncated off b).trem = s.trem := rfl
@[simp] theorem State.putTruncated_offset (off : BitVec 4) (b : Word) : (s.putTruncated off b).offset = off := rfl
@[simp] theorem State.putTruncated_bin (off : BitVec 4) (b : Word) : (s.putTruncated off b).bin = b := rfl
@[simp] theorem State.putTruncated_codeNum (off : BitVec 4) (b : Word) : (s.putTruncated off b).codeNum = s.codeNum := rfl
@[simp] theorem State.putTruncated_code0 (off : BitVec 4) (b : Word) : (s.putTruncated off b).code0 = s.code0 := rfl
@[simp] theorem State.putTruncated_code1 (off : BitVec 4) (b : Word) : (s.putTruncated off b).code1 = s.code1 := rfl
@[simp] theorem State.putTruncated_mem (off : BitVec 4) (b : Word) : (s.putTruncated off b).mem = s.mem := rfl
@[simp] theorem State.putTruncated_response (off : BitVec 4) (b : Word) : (s.putTruncated off b).response = s.response := rfl
@[simp] theorem State.putTruncated_events (off : BitVec 4) (b : Word) : (s.putTruncated off b).events = s.events := rfl

/-! ### State.putCode -/

@[simp] theorem State.putCode_ie (num : BitVec 20) (c0 : Word) (c1 : BitVec 16) : (s.putCode num c0 c1).ie = s.ie := rfl
@[simp] theorem State.putCode_busy (num : BitVec 20) (c0 : Word) (c1 : BitVec 16) : (s.putCode num c0 c1).busy = s.busy := rfl
@[simp] theorem State.putCode_done (num : BitVec 20) (c0 : Word) (c1 : BitVec 16) : (s.putCode num c0 c1).done = s.done := rfl
@[simp] theorem State.putCode_ovr (num : BitVec 20) (c0 : Word) (c1 : BitVec 16) : (s.putCode num c0 c1).ovr = s.ovr := rfl
@[simp] theorem State.putCode_err (num : BitVec 20) (c0 : Word) (c1 : BitVec 16) : (s.putCode num c0 c1).err = s.err := rfl
@[simp] theorem State.putCode_pend (num : BitVec 20) (c0 : Word) (c1 : BitVec 16) : (s.putCode num c0 c1).pend = s.pend := rfl
@[simp] theorem State.putCode_secretLen (num : BitVec 20) (c0 : Word) (c1 : BitVec 16) : (s.putCode num c0 c1).secretLen = s.secretLen := rfl
@[simp] theorem State.putCode_keyLen (num : BitVec 20) (c0 : Word) (c1 : BitVec 16) : (s.putCode num c0 c1).keyLen = s.keyLen := rfl
@[simp] theorem State.putCode_msgLen (num : BitVec 20) (c0 : Word) (c1 : BitVec 16) : (s.putCode num c0 c1).msgLen = s.msgLen := rfl
@[simp] theorem State.putCode_timeLo (num : BitVec 20) (c0 : Word) (c1 : BitVec 16) : (s.putCode num c0 c1).timeLo = s.timeLo := rfl
@[simp] theorem State.putCode_timeHi (num : BitVec 20) (c0 : Word) (c1 : BitVec 16) : (s.putCode num c0 c1).timeHi = s.timeHi := rfl
@[simp] theorem State.putCode_tstepLo (num : BitVec 20) (c0 : Word) (c1 : BitVec 16) : (s.putCode num c0 c1).tstepLo = s.tstepLo := rfl
@[simp] theorem State.putCode_tstepHi (num : BitVec 20) (c0 : Word) (c1 : BitVec 16) : (s.putCode num c0 c1).tstepHi = s.tstepHi := rfl
@[simp] theorem State.putCode_trem (num : BitVec 20) (c0 : Word) (c1 : BitVec 16) : (s.putCode num c0 c1).trem = s.trem := rfl
@[simp] theorem State.putCode_offset (num : BitVec 20) (c0 : Word) (c1 : BitVec 16) : (s.putCode num c0 c1).offset = s.offset := rfl
@[simp] theorem State.putCode_bin (num : BitVec 20) (c0 : Word) (c1 : BitVec 16) : (s.putCode num c0 c1).bin = s.bin := rfl
@[simp] theorem State.putCode_codeNum (num : BitVec 20) (c0 : Word) (c1 : BitVec 16) : (s.putCode num c0 c1).codeNum = num := rfl
@[simp] theorem State.putCode_code0 (num : BitVec 20) (c0 : Word) (c1 : BitVec 16) : (s.putCode num c0 c1).code0 = c0 := rfl
@[simp] theorem State.putCode_code1 (num : BitVec 20) (c0 : Word) (c1 : BitVec 16) : (s.putCode num c0 c1).code1 = c1 := rfl
@[simp] theorem State.putCode_mem (num : BitVec 20) (c0 : Word) (c1 : BitVec 16) : (s.putCode num c0 c1).mem = s.mem := rfl
@[simp] theorem State.putCode_response (num : BitVec 20) (c0 : Word) (c1 : BitVec 16) : (s.putCode num c0 c1).response = s.response := rfl
@[simp] theorem State.putCode_events (num : BitVec 20) (c0 : Word) (c1 : BitVec 16) : (s.putCode num c0 c1).events = s.events := rfl

/-! ### State.putRemaining -/

@[simp] theorem State.putRemaining_ie (r : BitVec 5) : (s.putRemaining r).ie = s.ie := rfl
@[simp] theorem State.putRemaining_busy (r : BitVec 5) : (s.putRemaining r).busy = s.busy := rfl
@[simp] theorem State.putRemaining_done (r : BitVec 5) : (s.putRemaining r).done = s.done := rfl
@[simp] theorem State.putRemaining_ovr (r : BitVec 5) : (s.putRemaining r).ovr = s.ovr := rfl
@[simp] theorem State.putRemaining_err (r : BitVec 5) : (s.putRemaining r).err = s.err := rfl
@[simp] theorem State.putRemaining_pend (r : BitVec 5) : (s.putRemaining r).pend = s.pend := rfl
@[simp] theorem State.putRemaining_secretLen (r : BitVec 5) : (s.putRemaining r).secretLen = s.secretLen := rfl
@[simp] theorem State.putRemaining_keyLen (r : BitVec 5) : (s.putRemaining r).keyLen = s.keyLen := rfl
@[simp] theorem State.putRemaining_msgLen (r : BitVec 5) : (s.putRemaining r).msgLen = s.msgLen := rfl
@[simp] theorem State.putRemaining_timeLo (r : BitVec 5) : (s.putRemaining r).timeLo = s.timeLo := rfl
@[simp] theorem State.putRemaining_timeHi (r : BitVec 5) : (s.putRemaining r).timeHi = s.timeHi := rfl
@[simp] theorem State.putRemaining_tstepLo (r : BitVec 5) : (s.putRemaining r).tstepLo = s.tstepLo := rfl
@[simp] theorem State.putRemaining_tstepHi (r : BitVec 5) : (s.putRemaining r).tstepHi = s.tstepHi := rfl
@[simp] theorem State.putRemaining_trem (r : BitVec 5) : (s.putRemaining r).trem = r := rfl
@[simp] theorem State.putRemaining_offset (r : BitVec 5) : (s.putRemaining r).offset = s.offset := rfl
@[simp] theorem State.putRemaining_bin (r : BitVec 5) : (s.putRemaining r).bin = s.bin := rfl
@[simp] theorem State.putRemaining_codeNum (r : BitVec 5) : (s.putRemaining r).codeNum = s.codeNum := rfl
@[simp] theorem State.putRemaining_code0 (r : BitVec 5) : (s.putRemaining r).code0 = s.code0 := rfl
@[simp] theorem State.putRemaining_code1 (r : BitVec 5) : (s.putRemaining r).code1 = s.code1 := rfl
@[simp] theorem State.putRemaining_mem (r : BitVec 5) : (s.putRemaining r).mem = s.mem := rfl
@[simp] theorem State.putRemaining_response (r : BitVec 5) : (s.putRemaining r).response = s.response := rfl
@[simp] theorem State.putRemaining_events (r : BitVec 5) : (s.putRemaining r).events = s.events := rfl

end Sys2Proof.Machine
end

