-- ==== Sys2Proof/Laws/Operands.lean ====
section
/-! SUPPORT. What the operands are: TIME as a number, lengths, and what they depend on. -/

namespace Sys2Proof.Machine

/-- TIME as a number: the two halves do not overlap. -/
theorem timeOperand_eq (s : State) : timeOperand s = s.timeHi.toNat * 2 ^ 32 + s.timeLo.toNat := by
  rw [timeOperand, ← Nat.shiftLeft_add_eq_or_of_lt s.timeLo.isLt, Nat.shiftLeft_eq]

theorem timeOperand_lt (s : State) : timeOperand s < 2 ^ 64 := by
  have h1 := s.timeHi.isLt
  have h2 := s.timeLo.isLt
  rw [timeOperand_eq]
  omega

/-- TIME depends on TIME_LO and TIME_HI alone. -/
theorem timeOperand_congr {s t : State} (h1 : s.timeLo = t.timeLo) (h2 : s.timeHi = t.timeHi) :
    timeOperand s = timeOperand t := by
  simp only [timeOperand, h1, h2]

@[simp] theorem length_secretOperand (s : State) : (secretOperand s).length = s.secretLen.toNat := by
  simp [secretOperand]

@[simp] theorem length_keyOperand (s : State) : (keyOperand s).length = s.keyLen.toNat := by
  simp [keyOperand]

@[simp] theorem length_msgOperand (s : State) : (msgOperand s).length = s.msgLen.toNat := by
  simp [msgOperand]

@[simp] theorem length_digestOperand (s : State) : (digestOperand s).length = 20 := by
  simp [digestOperand, Config.digestBytes]

theorem getD_digestOperand (s : State) {i : Nat} (h : i < 20) :
    (digestOperand s).getD i 0 = Memory.read s.mem (Config.digestBase + i) :=
  Memory.getD_readBytes _ _ h

theorem secretTooLong_iff (s : State) : secretTooLong s = true ↔ 128 < s.secretLen.toNat := by
  simp only [secretTooLong, decide_eq_true_eq]

theorem hmacTooLong_iff (s : State) : hmacTooLong s = true ↔ 80 < s.keyLen.toNat ∨ 64 < s.msgLen.toNat := by
  simp only [hmacTooLong, Bool.or_eq_true, decide_eq_true_eq]

end Sys2Proof.Machine
end

