-- ==== Sys2Proof/Laws/Base32.lean ====
section
/-! SUPPORT. Lengths in the Base32 decoder, and how its functions split over lists. -/

namespace Sys2Proof.Machine

@[simp] theorem length_symbolBits (v : BitVec 5) : (symbolBits v).length = 5 := rfl

theorem symbols_append (s t : Bytes) : symbols (s ++ t) = symbols s ++ symbols t := by
  simp [symbols]

theorem length_symbols_le (s : Bytes) : (symbols s).length ≤ s.length := List.length_filterMap_le _ _

theorem length_flatMap_symbolBits (vs : List (BitVec 5)) : (vs.flatMap symbolBits).length = 5 * vs.length := by
  induction vs with
  | nil => rfl
  | cons v vs ih => simp only [List.flatMap_cons, List.length_append, ih, length_symbolBits, List.length_cons]; omega

@[simp] theorem length_secretBits (s : Bytes) : (secretBits s).length = 5 * (symbols s).length :=
  length_flatMap_symbolBits _

@[simp] theorem length_packBits (bits : List Bool) : (packBits bits).length = bits.length / 8 := by
  simp [packBits]

theorem getD_packBits {bits : List Bool} {m : Nat} (h : m < bits.length / 8) :
    (packBits bits).getD m 0 = byteFromBits bits m := by
  simp [packBits, List.getD, h]

/-- Eight bits summed at their places are the bits of the byte. -/
theorem getLsbD_sum_of_bits : ∀ b0 b1 b2 b3 b4 b5 b6 b7 : Bool, ∀ k : Fin 8,
    (BitVec.ofNat 8 ([b0.toNat <<< 7, b1.toNat <<< 6, b2.toNat <<< 5, b3.toNat <<< 4, b4.toNat <<< 3, b5.toNat <<< 2,
      b6.toNat <<< 1, b7.toNat <<< 0].sum)).getLsbD (7 - k.val) = [b0, b1, b2, b3, b4, b5, b6, b7].getD k.val false := by
  decide

/-- Bit 7 - k of output byte m is bit 8m + k of the sequence. -/
theorem getLsbD_byteFromBits (bits : List Bool) (m : Nat) {k : Nat} (h : k < 8) :
    (byteFromBits bits m).getLsbD (7 - k) = bits.getD (8 * m + k) false := by
  have key := getLsbD_sum_of_bits (bits.getD (8 * m + 0) false) (bits.getD (8 * m + 1) false)
    (bits.getD (8 * m + 2) false) (bits.getD (8 * m + 3) false) (bits.getD (8 * m + 4) false) (bits.getD (8 * m + 5) false) (bits.getD (8 * m + 6) false) (bits.getD (8 * m + 7) false) ⟨k, h⟩
  refine Eq.trans key ?_
  clear key
  simp only
  interval_cases k <;> rfl

/-- Bit 5i + k of the sequence is bit 4 - k of the i-th symbol. -/
theorem getD_flatMap_symbolBits (vs : List (BitVec 5)) (j : Nat) :
    (vs.flatMap symbolBits).getD j false = (vs.getD (j / 5) 0).getLsbD (4 - j % 5) := by
  induction vs generalizing j with
  | nil => simp
  | cons v vs ih =>
    rw [List.flatMap_cons]
    by_cases h : j < 5
    · rw [List.getD_append _ _ _ _ (by simpa using h), show j / 5 = 0 by omega, show j % 5 = j by omega]
      interval_cases j <;> rfl
    · rw [List.getD_append_right _ _ _ _ (by simpa using h), ih, length_symbolBits,
        show j / 5 = (j - 5) / 5 + 1 by omega, show (j - 5) % 5 = j % 5 by omega]
      rfl

/-- The decoded key of a secret that fits in SECRET fits in KEY. -/
theorem length_b32decode_le {s : Bytes} (h : s.length ≤ 128) : (b32decode s).length ≤ 80 := by
  have := length_symbols_le s
  simp only [b32decode, length_packBits, length_secretBits]
  omega

/-- The decoded key depends on the symbol values alone. -/
theorem b32decode_congr {s t : Bytes} (h : symbols s = symbols t) : b32decode s = b32decode t := by
  simp only [b32decode, secretBits, h]

end Sys2Proof.Machine
end

