-- ==== Sys2Proof/Laws/Bus.lean ====
section
/-! SUPPORT. The register map read both ways, and what a write can do. -/

namespace Sys2Proof.Machine

theorem Reg.addr_aligned (r : Reg) : r.addr % 4 = 0 := by
  cases r <;> simp only [Reg.addr, Config.digestBase, Config.msgBase, Config.secretBase, Config.keyBase] <;> omega

theorem Reg.addr_lt (r : Reg) : r.addr < 512 := by
  cases r <;> simp only [Reg.addr, Config.digestBase, Config.msgBase, Config.secretBase, Config.keyBase] <;> omega

/-- What an admitted write can do to the state, by cases in the order of 60_exceptions.md R186. -/
theorem writeRegister_cases (s : State) (r : Reg) (v : Word) :
    (r.access = .ro ∧ writeRegister s r v = s)
      ∨ (r = .status ∧ writeRegister s r v = s.clearStatus v)
      ∨ (r = .ctrl ∧ writeRegister s r v = { s with ie := v.getLsbD 0 })
      ∨ (s.busy = true ∧ r.access ≠ .ro ∧ r ≠ .status ∧ r ≠ .ctrl ∧ writeRegister s r v = s.dropWrite)
      ∨ (s.busy = false ∧ r = .cmd ∧ writeRegister s r v = s.accept v)
      ∨ (s.busy = false ∧ r.access = .rw ∧ r ≠ .ctrl ∧ writeRegister s r v = setReg s r (v &&& r.usedBits)) := by
  unfold writeRegister
  by_cases h1 : r.access = .ro
  · exact .inl ⟨h1, if_pos h1⟩
  by_cases h2 : r = .status
  · exact .inr (.inl ⟨h2, by rw [if_neg h1, if_pos h2]⟩)
  by_cases h3 : r = .ctrl
  · exact .inr (.inr (.inl ⟨h3, by rw [if_neg h1, if_neg h2, if_pos h3]⟩))
  rw [if_neg h1, if_neg h2, if_neg h3]
  cases h4 : s.busy with
  | true => exact .inr (.inr (.inr (.inl ⟨rfl, h1, h2, h3, by simp⟩)))
  | false =>
    by_cases h5 : r = .cmd
    · exact .inr (.inr (.inr (.inr (.inl ⟨rfl, h5, by simp [h5]⟩))))
    · refine .inr (.inr (.inr (.inr (.inr ⟨rfl, ?_, h3, by simp [h5]⟩))))
      cases r <;> simp_all [Reg.access]

/-- What a transaction can do to everything but the response, by cases (20_memory.md R52, R53). -/
theorem transact_cases (s : State) (b : Transaction) :
    (∃ p, transact s b = { s with response := some p })
      ∨ (∃ off size v r p, b = .write off size v ∧ admitted off size = true ∧ registerAt off.toNat = some r
          ∧ transact s b = { writeRegister s r v with response := some p }) := by
  cases b with
  | read off size => exact .inl ⟨_, rfl⟩
  | write off size v =>
    by_cases ha : admitted off size = true
    · cases hr : registerAt off.toNat with
      | none => exact .inl ⟨.writeOk, by simp [transact, memWrite, ha, hr]⟩
      | some r => exact .inr ⟨off, size, v, r, .writeOk, rfl, ha, hr, by simp [transact, memWrite, ha, hr]⟩
    · exact .inl ⟨.writeError, by simp [transact, memWrite, ha]⟩

/-- The registers an RW data write can change, and what it leaves alone (20_memory.md R53). -/
theorem setReg_keeps (s : State) (r : Reg) (v : Word) :
    (setReg s r v).ie = s.ie ∧ (setReg s r v).busy = s.busy ∧ (setReg s r v).done = s.done
      ∧ (setReg s r v).ovr = s.ovr ∧ (setReg s r v).err = s.err ∧ (setReg s r v).pend = s.pend
      ∧ (setReg s r v).tstepLo = s.tstepLo ∧ (setReg s r v).tstepHi = s.tstepHi ∧ (setReg s r v).trem = s.trem
      ∧ (setReg s r v).offset = s.offset ∧ (setReg s r v).codeNum = s.codeNum ∧ (setReg s r v).code0 = s.code0
      ∧ (setReg s r v).code1 = s.code1 ∧ (setReg s r v).response = s.response
      ∧ (setReg s r v).events = s.events := by
  cases r <;> simp only [setReg, and_self]

/-- A used-bits mask of the low w bits changes no register of w bits. -/
theorem setWidth_and_low {w : Nat} (hw : w ≤ 32) (x : BitVec w) :
    x.setWidth 32 &&& BitVec.ofNat 32 (2 ^ w - 1) = x.setWidth 32 := by
  apply BitVec.eq_of_toNat_eq
  have h1 : (2 : Nat) ^ w ≤ 2 ^ 32 := Nat.pow_le_pow_right (by omega) hw
  have h2 := x.isLt
  have h3 := Nat.pow_pos (n := w) (show 0 < 2 by omega)
  rw [BitVec.toNat_and, BitVec.toNat_setWidth, BitVec.toNat_ofNat, Nat.mod_eq_of_lt (a := 2 ^ w - 1) (by omega),
    Nat.and_two_pow_sub_one_eq_mod, Nat.mod_eq_of_lt (a := x.toNat) (by omega), Nat.mod_eq_of_lt h2]

/-- A register's value has no bit outside its used bits (10_state.md R23). -/
theorem regValue_usedBits (s : State) (r : Reg) : regValue s r &&& r.usedBits = regValue s r := by
  have full : ∀ x : Word, x &&& 0xFFFFFFFF = x := fun x => BitVec.and_allOnes
  cases r with
  | status =>
    simp only [regValue, Reg.usedBits, statusWord]
    cases s.busy <;> cases s.done <;> cases s.ovr <;> cases s.err <;> rfl
  | ctrl => exact setWidth_and_low (w := 1) (by omega) _
  | secretLen => exact setWidth_and_low (w := 16) (by omega) _
  | keyLen => exact setWidth_and_low (w := 16) (by omega) _
  | msgLen => exact setWidth_and_low (w := 16) (by omega) _
  | offset => exact setWidth_and_low (w := 4) (by omega) _
  | trem => exact setWidth_and_low (w := 5) (by omega) _
  | codeNum => exact setWidth_and_low (w := 20) (by omega) _
  | code1 =>
    apply BitVec.eq_of_getLsbD_eq
    intro i hi
    by_cases hlt : i < 16
    · simp [regValue, Reg.usedBits, hlt]
    · have h1 : (Reg.usedBits .code1).getLsbD i = true := by interval_cases i <;> rfl
      rw [BitVec.getLsbD_and, h1, Bool.and_true]
  | _ => exact full _

/-- An admitted read of a register gives its value (20_memory.md R52). -/
theorem memRead_of_registerAt (s : State) {off : Offset} {r : Reg} (h : registerAt off.toNat = some r)
    (h4 : off.toNat % 4 = 0) : memRead s off 4 = .readOk (regValue s r) := by
  have ha : admitted off 4 = true := by simp [admitted, h4]
  unfold memRead
  rw [if_pos ha, h]
  cases r <;> simp only [regValue_usedBits]
  rfl

/-- An admitted write to a register (20_memory.md R53). -/
theorem memWrite_of_registerAt (s : State) {off : Offset} {r : Reg} (v : Word) (h : registerAt off.toNat = some r)
    (h4 : off.toNat % 4 = 0) : memWrite s off 4 v = (writeRegister s r v, .writeOk) := by
  simp [memWrite, admitted, h4, h]

/-- A write the busy rule drops (20_memory.md R56). -/
theorem writeRegister_busy {s : State} {r : Reg} (v : Word) (h : s.busy = true) (h1 : r.access ≠ .ro)
    (h2 : r ≠ .status) (h3 : r ≠ .ctrl) : writeRegister s r v = s.dropWrite := by
  simp [writeRegister, h, h1, h2, h3]

/-- At the word-aligned offset of a buffer byte stands a buffer word, protected by the busy rule and written whole
(10_state.md R22, R30). -/
theorem registerAt_bufferAddr {a : Nat} (h : bufferAddr a) (h4 : a % 4 = 0) :
    ∃ r, registerAt a = some r ∧ r.addr = a ∧ r.access = .rw ∧ r.busyProtected = true
      ∧ ∀ s : State, regValue s r = Memory.readWord s.mem a
        ∧ ∀ v, s.busy = false → writeRegister s r v = { s with mem := Memory.writeWord s.mem a v } := by
  have full : ∀ x : Word, x &&& 0xFFFFFFFF = x := fun x => BitVec.and_allOnes
  simp only [bufferAddr, Config.digestBase, Config.digestBytes, Config.msgBase, Config.msgMax, Config.secretBase,
    Config.secretMax, Config.keyBase, Config.keyMax] at h
  rcases h with h | h | h | h
  · obtain ⟨k, hk, rfl⟩ : ∃ k, k < 5 ∧ a = 0x048 + 4 * k := ⟨(a - 0x048) / 4, by omega, by omega⟩
    refine ⟨.digest ⟨k, hk⟩, by interval_cases k <;> rfl, rfl, rfl, rfl, fun s => ⟨rfl, fun v hb => ?_⟩⟩
    rw [← full v]
    simp only [writeRegister, Reg.access, hb, setReg, Reg.usedBits, full]
    rfl
  · obtain ⟨k, hk, rfl⟩ : ∃ k, k < 16 ∧ a = 0x080 + 4 * k := ⟨(a - 0x080) / 4, by omega, by omega⟩
    refine ⟨.msgW ⟨k, hk⟩, by interval_cases k <;> rfl, rfl, rfl, rfl, fun s => ⟨rfl, fun v hb => ?_⟩⟩
    rw [← full v]
    simp only [writeRegister, Reg.access, hb, setReg, Reg.usedBits, full]
    rfl
  · obtain ⟨k, hk, rfl⟩ : ∃ k, k < 32 ∧ a = 0x100 + 4 * k := ⟨(a - 0x100) / 4, by omega, by omega⟩
    refine ⟨.secretW ⟨k, hk⟩, by interval_cases k <;> rfl, rfl, rfl, rfl, fun s => ⟨rfl, fun v hb => ?_⟩⟩
    rw [← full v]
    simp only [writeRegister, Reg.access, hb, setReg, Reg.usedBits, full]
    rfl
  · obtain ⟨k, hk, rfl⟩ : ∃ k, k < 20 ∧ a = 0x180 + 4 * k := ⟨(a - 0x180) / 4, by omega, by omega⟩
    refine ⟨.keyW ⟨k, hk⟩, by interval_cases k <;> rfl, rfl, rfl, rfl, fun s => ⟨rfl, fun v hb => ?_⟩⟩
    rw [← full v]
    simp only [writeRegister, Reg.access, hb, setReg, Reg.usedBits, full]
    rfl

/-- What a dropped transaction is (20_memory.md R56). -/
theorem dropped_iff (s : State) (b : Transaction) :
    dropped s b = true ↔ s.busy = true ∧ ∃ off size v r, b = .write off size v ∧ admitted off size = true
      ∧ registerAt off.toNat = some r ∧ r.busyProtected = true := by
  cases b with
  | read => simp [dropped]
  | write off size v =>
    simp only [dropped]
    cases hr : registerAt off.toNat with
    | none => simp [hr]
    | some r =>
      simp only [Bool.and_eq_true, and_assoc]
      refine and_congr_right fun _ => ⟨?_, ?_⟩
      · rintro ⟨h1, h2⟩
        exact ⟨off, size, v, r, rfl, h1, hr, h2⟩
      · rintro ⟨_, _, _, _, h, h1, h2, h3⟩
        injection h with e1 e2 e3
        subst e1 e2 e3
        rw [hr] at h2
        injection h2 with h2
        subst h2
        exact ⟨h1, h3⟩

end Sys2Proof.Machine
end

