-- ==== Sys2Proof/Laws/Code.lean ====
section
/-! SUPPORT. Truncation and formatting as numbers: the spec lemma of each function of 44_truncate_format.md. -/

namespace Sys2Proof.Machine

/-- The truncation offset is the low nibble of byte 19. -/
theorem toNat_truncOffset (d : Bytes) : (truncOffset d).toNat = (d.getD 19 0).toNat % 16 := by
  simp [truncOffset, BitVec.extractLsb'_toNat]

/-- The window as a number, its top bit masked. -/
theorem toNat_truncWindow (d : Bytes) (off : Nat) :
    (truncWindow d off).toNat = (d.getD off 0).toNat % 128 * 2 ^ 24 + (d.getD (off + 1) 0).toNat * 2 ^ 16
      + (d.getD (off + 2) 0).toNat * 2 ^ 8 + (d.getD (off + 3) 0).toNat := by
  have h : (0x7F#8 : Byte).toNat = 2 ^ 7 - 1 := rfl
  rw [truncWindow, toNat_be32, BitVec.toNat_and, h, Nat.and_two_pow_sub_one_eq_mod]

/-- A digit character as a number. -/
theorem toNat_codeChar (c j : Nat) : (codeChar c j).toNat = 0x30 + c / 10 ^ (5 - j) % 10 := by
  have := Nat.mod_lt (c / 10 ^ (5 - j)) (show 0 < 10 by omega)
  rw [codeChar, codeDigit, BitVec.toNat_ofNat, Nat.mod_eq_of_lt (by omega)]

/-- CODE0 as a number. -/
theorem toNat_packCode0 (c : Nat) :
    (packCode0 c).toNat = (codeChar c 0).toNat * 2 ^ 24 + (codeChar c 1).toNat * 2 ^ 16
      + (codeChar c 2).toNat * 2 ^ 8 + (codeChar c 3).toNat := toNat_be32 _ _ _ _

/-- CODE1[31:16] as a number. -/
theorem toNat_packCode1 (c : Nat) :
    (packCode1 c).toNat = (codeChar c 4).toNat * 2 ^ 8 + (codeChar c 5).toNat := by
  have h4 := (codeChar c 4).isLt
  have h5 := (codeChar c 5).isLt
  rw [packCode1, BitVec.extractLsb'_toNat, toNat_be32, Nat.shiftRight_eq_div_pow]
  have h0 : (0x00 : Byte).toNat = 0 := rfl
  omega

theorem reduceCode_lt (b : Nat) : reduceCode b < 1000000 := Nat.mod_lt _ (by decide)

/-- A reduced code fits CODE_NUM. -/
theorem toNat_codeNum (b : Nat) : (BitVec.ofNat 20 (reduceCode b)).toNat = reduceCode b := by
  have := reduceCode_lt b
  rw [BitVec.toNat_ofNat]
  omega

end Sys2Proof.Machine
end

