-- ==== Sys2Proof/Laws/Generate.lean ====
section
/-! SUPPORT. One lemma per field of State for the two updates made of others: FMT's registers and GEN's registers
(10_state.md R37). -/

namespace Sys2Proof.Machine

variable (s : State)

/-! ### State.putFormatted -/

@[simp] theorem State.putFormatted_ie (c : Nat) : (s.putFormatted c).ie = s.ie := rfl
@[simp] theorem State.putFormatted_busy (c : Nat) : (s.putFormatted c).busy = s.busy := rfl
@[simp] theorem State.putFormatted_done (c : Nat) : (s.putFormatted c).done = s.done := rfl
@[simp] theorem State.putFormatted_ovr (c : Nat) : (s.putFormatted c).ovr = s.ovr := rfl
@[simp] theorem State.putFormatted_err (c : Nat) : (s.putFormatted c).err = s.err := rfl
@[simp] theorem State.putFormatted_pend (c : Nat) : (s.putFormatted c).pend = s.pend := rfl
@[simp] theorem State.putFormatted_secretLen (c : Nat) : (s.putFormatted c).secretLen = s.secretLen := rfl
@[simp] theorem State.putFormatted_keyLen (c : Nat) : (s.putFormatted c).keyLen = s.keyLen := rfl
@[simp] theorem State.putFormatted_msgLen (c : Nat) : (s.putFormatted c).msgLen = s.msgLen := rfl
@[simp] theorem State.putFormatted_timeLo (c : Nat) : (s.putFormatted c).timeLo = s.timeLo := rfl
@[simp] theorem State.putFormatted_timeHi (c : Nat) : (s.putFormatted c).timeHi = s.timeHi := rfl
@[simp] theorem State.putFormatted_tstepLo (c : Nat) : (s.putFormatted c).tstepLo = s.tstepLo := rfl
@[simp] theorem State.putFormatted_tstepHi (c : Nat) : (s.putFormatted c).tstepHi = s.tstepHi := rfl
@[simp] theorem State.putFormatted_trem (c : Nat) : (s.putFormatted c).trem = s.trem := rfl
@[simp] theorem State.putFormatted_offset (c : Nat) : (s.putFormatted c).offset = s.offset := rfl
@[simp] theorem State.putFormatted_bin (c : Nat) : (s.putFormatted c).bin = s.bin := rfl
@[simp] theorem State.putFormatted_codeNum (c : Nat) : (s.putFormatted c).codeNum = BitVec.ofNat 20 c := rfl
@[simp] theorem State.putFormatted_code0 (c : Nat) : (s.putFormatted c).code0 = packCode0 c := rfl
@[simp] theorem State.putFormatted_code1 (c : Nat) : (s.putFormatted c).code1 = packCode1 c := rfl
@[simp] theorem State.putFormatted_mem (c : Nat) : (s.putFormatted c).mem = s.mem := rfl
@[simp] theorem State.putFormatted_response (c : Nat) : (s.putFormatted c).response = s.response := rfl
@[simp] theorem State.putFormatted_events (c : Nat) : (s.putFormatted c).events = s.events := rfl

/-! ### State.putGenerated -/

@[simp] theorem State.putGenerated_ie (secret : Bytes) (t : Nat) :
    (s.putGenerated secret t).ie = s.ie := by
  simp [State.putGenerated]

@[simp] theorem State.putGenerated_busy (secret : Bytes) (t : Nat) :
    (s.putGenerated secret t).busy = s.busy := by
  simp [State.putGenerated]

@[simp] theorem State.putGenerated_done (secret : Bytes) (t : Nat) :
    (s.putGenerated secret t).done = s.done := by
  simp [State.putGenerated]

@[simp] theorem State.putGenerated_ovr (secret : Bytes) (t : Nat) :
    (s.putGenerated secret t).ovr = s.ovr := by
  simp [State.putGenerated]

@[simp] theorem State.putGenerated_err (secret : Bytes) (t : Nat) :
    (s.putGenerated secret t).err = s.err := by
  simp [State.putGenerated]

@[simp] theorem State.putGenerated_pend (secret : Bytes) (t : Nat) :
    (s.putGenerated secret t).pend = s.pend := by
  simp [State.putGenerated]

@[simp] theorem State.putGenerated_secretLen (secret : Bytes) (t : Nat) :
    (s.putGenerated secret t).secretLen = s.secretLen := by
  simp [State.putGenerated]

@[simp] theorem State.putGenerated_keyLen (secret : Bytes) (t : Nat) :
    (s.putGenerated secret t).keyLen = BitVec.ofNat 16 (b32decode secret).length := by
  simp [State.putGenerated]

@[simp] theorem State.putGenerated_msgLen (secret : Bytes) (t : Nat) :
    (s.putGenerated secret t).msgLen = 8 := by
  simp [State.putGenerated]

@[simp] theorem State.putGenerated_timeLo (secret : Bytes) (t : Nat) :
    (s.putGenerated secret t).timeLo = s.timeLo := by
  simp [State.putGenerated]

@[simp] theorem State.putGenerated_timeHi (secret : Bytes) (t : Nat) :
    (s.putGenerated secret t).timeHi = s.timeHi := by
  simp [State.putGenerated]

@[simp] theorem State.putGenerated_tstepLo (secret : Bytes) (t : Nat) :
    (s.putGenerated secret t).tstepLo = BitVec.ofNat 32 (timeStep t % 2 ^ 32) := by
  simp [State.putGenerated]

@[simp] theorem State.putGenerated_tstepHi (secret : Bytes) (t : Nat) :
    (s.putGenerated secret t).tstepHi = BitVec.ofNat 32 (timeStep t >>> 32) := by
  simp [State.putGenerated]

@[simp] theorem State.putGenerated_trem (secret : Bytes) (t : Nat) :
    (s.putGenerated secret t).trem = secondsRemaining t := by
  simp [State.putGenerated]

@[simp] theorem State.putGenerated_offset (secret : Bytes) (t : Nat) :
    (s.putGenerated secret t).offset = truncOffset (hmacSha1 (b32decode secret) (be64bytes (timeStep t))) := by
  simp [State.putGenerated]

@[simp] theorem State.putGenerated_bin (secret : Bytes) (t : Nat) :
    (s.putGenerated secret t).bin = truncated (hmacSha1 (b32decode secret) (be64bytes (timeStep t))) := by
  simp [State.putGenerated]

@[simp] theorem State.putGenerated_codeNum (secret : Bytes) (t : Nat) :
    (s.putGenerated secret t).codeNum = BitVec.ofNat 20 (reduceCode (truncated (hmacSha1 (b32decode secret) (be64bytes (timeStep t)))).toNat) := by
  simp [State.putGenerated]

@[simp] theorem State.putGenerated_code0 (secret : Bytes) (t : Nat) :
    (s.putGenerated secret t).code0 = packCode0 (reduceCode (truncated (hmacSha1 (b32decode secret) (be64bytes (timeStep t)))).toNat) := by
  simp [State.putGenerated]

@[simp] theorem State.putGenerated_code1 (secret : Bytes) (t : Nat) :
    (s.putGenerated secret t).code1 = packCode1 (reduceCode (truncated (hmacSha1 (b32decode secret) (be64bytes (timeStep t)))).toNat) := by
  simp [State.putGenerated]

@[simp] theorem State.putGenerated_mem (secret : Bytes) (t : Nat) :
    (s.putGenerated secret t).mem = Memory.writeBytes (Memory.writeBytes (Memory.writeBytes s.mem Config.keyBase
        (padTo Config.keyMax (b32decode secret))) Config.msgBase (padTo Config.msgMax (be64bytes (timeStep t))))
        Config.digestBase (padTo Config.digestBytes (hmacSha1 (b32decode secret) (be64bytes (timeStep t)))) := by
  simp [State.putGenerated]

@[simp] theorem State.putGenerated_response (secret : Bytes) (t : Nat) :
    (s.putGenerated secret t).response = s.response := by
  simp [State.putGenerated]

@[simp] theorem State.putGenerated_events (secret : Bytes) (t : Nat) :
    (s.putGenerated secret t).events = s.events := by
  simp [State.putGenerated]

end Sys2Proof.Machine
end

