-- ==== Sys2Proof/Laws/Commit.lean ====
section
/-! SUPPORT. A completion's flags and the result updates do not touch the same fields, so they commute, and a later
completion's flags replace an earlier one's (10_state.md R36, R37). -/

namespace Sys2Proof.Machine

variable (s : State) (c c' : ErrCode)

theorem State.complete_complete : (s.complete c).complete c' = s.complete c' := rfl

theorem State.complete_putKey (k : Bytes) : (s.complete c).putKey k = (s.putKey k).complete c := by
  simp only [State.complete, State.putKey]

theorem State.complete_putCounter (ts : Nat) : (s.complete c).putCounter ts = (s.putCounter ts).complete c := by
  simp only [State.complete, State.putCounter]

theorem State.complete_putDigest (d : Bytes) : (s.complete c).putDigest d = (s.putDigest d).complete c := by
  simp only [State.complete, State.putDigest]

theorem State.complete_putTruncated (off : BitVec 4) (b : Word) :
    (s.complete c).putTruncated off b = (s.putTruncated off b).complete c := rfl

theorem State.complete_putFormatted (n : Nat) : (s.complete c).putFormatted n = (s.putFormatted n).complete c := rfl

theorem State.complete_putRemaining (r : BitVec 5) :
    (s.complete c).putRemaining r = (s.putRemaining r).complete c := rfl

/-- GEN's update is the six commands' updates in turn (45_generate.md R160). -/
theorem State.putGenerated_eq (secret : Bytes) (t : Nat) {k d : Bytes} {ts : Nat} (hk : k = b32decode secret)
    (hts : ts = timeStep t) (hd : d = hmacSha1 k (be64bytes ts)) :
    s.putGenerated secret t =
      (((((s.putKey k).putCounter ts).putDigest d).putTruncated (truncOffset d) (truncated d)).putFormatted
        (reduceCode (truncated d).toNat)).putRemaining (secondsRemaining t) := by
  subst hd hk hts
  simp only [State.putGenerated]

end Sys2Proof.Machine
end

