-- ==== Sys2Proof/Laws/Decode.lean ====
section
/-! SUPPORT. What the decoder answers, by the two fields of the word (30_encoding.md R76). -/

namespace Sys2Proof

theorem cmdFields_op (w : Word) : (cmdFields w).op = w.extractLsb' 0 4 := rfl

theorem cmdFields_rsvd (w : Word) : (cmdFields w).rsvd = w.extractLsb' 4 28 := rfl

/-- A CMD word is its two fields. -/
theorem toNat_cmdFields (w : Word) : w.toNat = (cmdFields w).rsvd.toNat * 16 + (cmdFields w).op.toNat := by
  have := w.isLt
  simp only [cmdFields_op, cmdFields_rsvd, BitVec.extractLsb'_toNat, Nat.shiftRight_eq_div_pow]
  omega

/-- The decoder accepts a word when its reserved bits are 0 and its opcode is in the map. -/
theorem decode_eq_ok {w : Word} {i : Instr} :
    decode w = .ok i ↔ (cmdFields w).rsvd = 0#28 ∧ opmap (cmdFields w).op = some i := by
  by_cases h : (cmdFields w).rsvd = 0#28
  · cases ho : opmap (cmdFields w).op <;> simp [decode, h, ho]
  · simp [decode, h]

/-- The decoder rejects a word otherwise. -/
theorem decode_eq_error {w : Word} :
    (∃ e, decode w = .error e) ↔ (cmdFields w).rsvd ≠ 0#28 ∨ opmap (cmdFields w).op = none := by
  by_cases h : (cmdFields w).rsvd = 0#28
  · cases ho : opmap (cmdFields w).op <;> simp [decode, h, ho]
  · simp [decode, h]

end Sys2Proof
end

