-- ==== Sys2Proof/Laws/Hmac.lean ====
section
/-! SUPPORT. Lengths in SHA-1 and HMAC-SHA1. -/

namespace Sys2Proof.Machine

/-- `ROTL_n` is rotation of the word (00_scope.md R11). -/
theorem rotl_eq {n : Nat} (hn : n < 32) (x : Word) : rotl n x = x.rotateLeft n := by
  rw [rotl, BitVec.rotateLeft, BitVec.rotateLeftAux, Nat.mod_eq_of_lt hn]

@[simp] theorem HashWords.length_bytes (h : HashWords) : h.bytes.length = 20 := by
  simp [HashWords.bytes]

@[simp] theorem length_sha1 (m : Bytes) : (sha1 m).length = 20 := by simp [sha1]

@[simp] theorem length_hmacSha1 (k m : Bytes) : (hmacSha1 k m).length = 20 := by simp [hmacSha1]

theorem sha1Pad_length (m : Bytes) : (sha1Pad m).length = m.length + 9 + sha1PadZeros m.length := by
  simp only [sha1Pad, List.length_append, List.length_singleton, length_zeros, length_be64bytes]
  omega

/-- `sha1PadZeros` meets the congruence of 43_hmac_sha1.md R121. -/
theorem sha1PadZeros_mod (l : Nat) : (l + 1 + sha1PadZeros l) % 64 = 56 := by
  simp only [sha1PadZeros]
  omega

theorem sha1PadZeros_lt (l : Nat) : sha1PadZeros l < 64 := by
  simp only [sha1PadZeros]
  omega

theorem length_hmacShortKey_le (k : Bytes) : (hmacShortKey k).length ≤ 64 := by
  unfold hmacShortKey
  split
  · simp
  · omega

@[simp] theorem length_hmacKeyBlock (k : Bytes) : (hmacKeyBlock k).length = 64 := by
  have := length_hmacShortKey_le k
  simp only [hmacKeyBlock, List.length_append, length_zeros]
  omega

end Sys2Proof.Machine
end

