-- ==== Sys2Proof/Laws/Exec.lean ====
section
/-! SUPPORT. What a completion can do, once per command: it answers a next state, and that state is either the failed
completion or the committed results. -/

namespace Sys2Proof.Machine

/-- The state a command's success commits (10_state.md R37). -/
def results (i : Instr) (s : State) : State :=
  match i with
  | .b32dec => s.putKey (b32decode (secretOperand s))
  | .tstep => s.putCounter (timeStep (timeOperand s))
  | .hmac => s.putDigest (hmacSha1 (keyOperand s) (msgOperand s))
  | .trunc => s.putTruncated (truncOffset (digestOperand s)) (truncated (digestOperand s))
  | .fmt => s.putFormatted (reduceCode (binOperand s))
  | .gen => s.putGenerated (secretOperand s) (timeOperand s)
  | .trem => s.putRemaining (secondsRemaining (timeOperand s))

/-- The command fails with LEN in s (60_exceptions.md R180). -/
def failsLen (i : Instr) (s : State) : Bool :=
  match i with
  | .b32dec => secretTooLong s
  | .gen => secretTooLong s
  | .hmac => hmacTooLong s
  | .tstep => false
  | .trunc => false
  | .fmt => false
  | .trem => false

/-- A choice between two next states is a next state. -/
theorem next_ite (c : Bool) (x y : State) :
    (if c then .next x else .next y : Host.Outcome State Fault Refusal) = .next (if c then x else y) := by
  cases c <;> rfl

/-- Every completion of a command is the failed completion or the commit of its results. -/
theorem exec_eq (i : Instr) (s : State) :
    exec i s = .next (if failsLen i s then raiseErr .len s else commit (results i s)) := by
  cases i with
  | b32dec => exact next_ite (secretTooLong s) _ _
  | tstep => rfl
  | hmac => exact next_ite (hmacTooLong s) _ _
  | trunc => rfl
  | fmt => rfl
  | gen => exact next_ite (secretTooLong s) _ _
  | trem => rfl

/-- A command that does not fail commits its results. -/
theorem exec_of_ok {i : Instr} {s : State} (h : failsLen i s = false) :
    exec i s = .next (commit (results i s)) := by
  rw [exec_eq, h, if_neg Bool.false_ne_true]

/-- A command that fails raises LEN. -/
theorem exec_of_failsLen {i : Instr} {s : State} (h : failsLen i s = true) :
    exec i s = .next (raiseErr .len s) := by
  rw [exec_eq, h, if_pos rfl]

/-- When B32DEC succeeds (60_exceptions.md R180). -/
theorem failsLen_b32dec {s : State} : failsLen .b32dec s = false ↔ s.secretLen.toNat ≤ 128 := by
  rw [← Bool.not_eq_true, failsLen, secretTooLong_iff, Nat.not_lt]

/-- When GEN succeeds (60_exceptions.md R180). -/
theorem failsLen_gen {s : State} : failsLen .gen s = false ↔ s.secretLen.toNat ≤ 128 := by
  rw [← Bool.not_eq_true, failsLen, secretTooLong_iff, Nat.not_lt]

/-- When HMAC succeeds (60_exceptions.md R180). -/
theorem failsLen_hmac {s : State} : failsLen .hmac s = false ↔ s.keyLen.toNat ≤ 80 ∧ s.msgLen.toNat ≤ 64 := by
  rw [← Bool.not_eq_true, failsLen, hmacTooLong_iff, not_or, Nat.not_lt, Nat.not_lt]

/-- The next state of a command, by cases. -/
theorem exec_next {i : Instr} {s t : State} (h : exec i s = .next t) :
    (failsLen i s = true ∧ t = raiseErr .len s) ∨ (failsLen i s = false ∧ t = commit (results i s)) := by
  rw [exec_eq] at h
  injection h with h
  cases hf : failsLen i s with
  | true => exact .inl ⟨rfl, by rw [← h, hf, if_pos rfl]⟩
  | false => exact .inr ⟨rfl, by rw [← h, hf, if_neg (by simp)]⟩

/-- A completion ends in a next state, and that state is one of three (10_state.md R36, 60_exceptions.md R176). -/
theorem completion_cases {s t : State} (h : completion s = .next t) :
    (∃ e, decode s.pend = .error e ∧ t = raiseErr .illegal s)
      ∨ (∃ i, decode s.pend = .ok i ∧ failsLen i s = true ∧ t = raiseErr .len s)
      ∨ (∃ i, decode s.pend = .ok i ∧ failsLen i s = false ∧ t = commit (results i s)) := by
  unfold completion at h
  split at h
  · rename_i i hi
    rcases exec_next h with ⟨hf, ht⟩ | ⟨hf, ht⟩
    · exact .inr (.inl ⟨i, hi, hf, ht⟩)
    · exact .inr (.inr ⟨i, hi, hf, ht⟩)
  · rename_i e he
    injection h with h
    exact .inl ⟨e, he, h.symm⟩

/-- The command's results leave what only a completion or the host writes. -/
theorem results_hostSide (i : Instr) (s : State) :
    (results i s).ie = s.ie ∧ (results i s).ovr = s.ovr ∧ (results i s).pend = s.pend
      ∧ (results i s).secretLen = s.secretLen ∧ (results i s).timeLo = s.timeLo ∧ (results i s).timeHi = s.timeHi
      ∧ (results i s).response = s.response ∧ (results i s).events = s.events := by
  cases i <;> simp [results, State.putFormatted, State.putGenerated]

end Sys2Proof.Machine
end

