-- ==== Sys2Proof/Laws/HostProgram.lean ====
section
/-! SUPPORT. What a host's turn and a run of host turns do (30_encoding.md R85, R86). -/

namespace Sys2Proof.Machine

/-- After a transaction the response is what the block answers to it. -/
theorem transact_response (s : State) (b : Transaction) : (transact s b).response = some (answer s b) := by
  cases b <;> rfl

/-- A line that is run once. -/
theorem hostTurn_once (i : HostInstr) (rest : List HostLine) (s : State) :
    hostTurn (.once i :: rest) s = (rest, transact s i.transaction) := rfl

/-- A straight-line program takes one turn an instruction, and its transactions take effect in its order. -/
theorem hostTurns_once (is : List HostInstr) (s : State) :
    hostTurns is.length (is.map .once) s = ([], (is.map HostInstr.transaction).foldl transact s) := by
  induction is generalizing s with
  | nil => rfl
  | cons i is ih => exact ih (transact s i.transaction)

/-- A run under host moves alone is the host's turns. -/
theorem hostRun_host (n : Nat) (ms : List Move) (p : List HostLine) (s : State) :
    hostRun (List.replicate n .host ++ ms) p s = hostRun ms (hostTurns n p s).1 (hostTurns n p s).2 := by
  induction n generalizing p s with
  | zero => rfl
  | succ n ih => exact ih (hostTurn p s).1 (hostTurn p s).2

end Sys2Proof.Machine
end

