-- ==== Sys2Proof/Laws/PerInstr.lean ====
section
/-! SUPPORT. What holds of every instruction as syntax, one lemma per constructor. -/

namespace Sys2Proof.Laws.CommandWord

/-- The command word of i has well-formed fields (30_encoding.md R76, R80). -/
def Statement (i : Instr) : Prop := (cmdFields (encode i)).wf = true

theorem b32dec : Statement .b32dec := rfl
theorem tstep : Statement .tstep := rfl
theorem hmac : Statement .hmac := rfl
theorem trunc : Statement .trunc := rfl
theorem fmt : Statement .fmt := rfl
theorem gen : Statement .gen := rfl
theorem trem : Statement .trem := rfl

end Sys2Proof.Laws.CommandWord
end

