-- ==== Sys2Proof/Laws/Step.lean ====
section
/-! SUPPORT. What a step can do, by cases: every invariant of the block is derived from this. -/

namespace Sys2Proof.Machine

/-- The state in which the next event takes place: the event is no longer to come. -/
def State.popped (s : State) : State := { s with events := s.events.tail }

theorem State.popped_of_nil {s : State} (h : s.events = []) : s.popped = s := by
  cases s
  simp only at h
  subst h
  rfl

/-- A step with no event listed is the engine's turn. -/
theorem step_of_nil {s : State} (h : s.events = []) : step s = engineTurn s := by
  simp only [step, h, occur]

/-- A step with an event listed is that event. -/
theorem step_of_cons {s : State} {e : Event} {es : List Event} (h : s.events = e :: es) :
    step s = occur s.popped e := by
  simp only [step, h, State.popped, List.tail_cons]

/-- What the engine's turn can do: an idle turn or a completion (10_state.md R36). -/
theorem engineTurn_cases {s t : State} (h : engineTurn s = .next t) :
    (s.busy = false ∧ t = s) ∨ (s.busy = true ∧ completion s = .next t) := by
  unfold engineTurn at h
  split at h
  · exact .inr ⟨‹_›, h⟩
  · injection h with h
    exact .inl ⟨by simp_all, h.symm⟩

/-- A step is a reset, a transaction, an idle turn or a completion (20_memory.md R63). -/
theorem step_cases {s t : State} (h : step s = .next t) :
    (∃ es, s.events = .reset :: es ∧ t = { State.reset with events := es })
      ∨ (∃ b es, s.events = .bus b :: es ∧ t = transact s.popped b)
      ∨ ((s.events = [] ∨ ∃ es, s.events = .engine :: es) ∧ s.busy = false ∧ t = s.popped)
      ∨ ((s.events = [] ∨ ∃ es, s.events = .engine :: es) ∧ s.busy = true ∧ completion s.popped = .next t) := by
  have turn (he : s.events = [] ∨ ∃ es, s.events = .engine :: es) (ht : engineTurn s.popped = .next t) :
      ((s.events = [] ∨ ∃ es, s.events = .engine :: es) ∧ s.busy = false ∧ t = s.popped)
        ∨ ((s.events = [] ∨ ∃ es, s.events = .engine :: es) ∧ s.busy = true ∧ completion s.popped = .next t) :=
    (engineTurn_cases ht).imp (⟨he, ·⟩) (⟨he, ·⟩)
  cases he : s.events with
  | nil =>
    rw [step_of_nil he, ← State.popped_of_nil he] at h
    simpa only [he] using Or.inr (Or.inr (turn (.inl he) h))
  | cons e es =>
    rw [step_of_cons he] at h
    have hp : s.popped.events = es := by simp only [State.popped, he, List.tail_cons]
    cases e with
    | engine => simpa only [he] using Or.inr (Or.inr (turn (.inr ⟨es, he⟩) h))
    | bus b =>
      injection h with h
      exact .inr (.inl ⟨b, es, rfl, h.symm⟩)
    | reset =>
      injection h with h
      exact .inl ⟨es, rfl, by rw [← h, hp]⟩

/-- A run's first step, when it goes on. -/
theorem core_run_succ {s t : State} (k : Nat) (h : step s = .next t) :
    Host.Core.run Sys2Proof.core (k + 1) s = Host.Core.run Sys2Proof.core k t := by
  have h' : Host.Core.step Sys2Proof.core s = .next t := h
  simp only [Host.Core.run, h']

end Sys2Proof.Machine
end

