-- ==== Sys2Proof/Tests/Slice0.lean ====
section
/-! SUPPORT. Tests and witnesses. A test's expected values are those of spec/95_test_vectors.md (the section is named at
each) or worked out by hand from the rule named there. A witness shows a concrete state and operands that meet all the
hypotheses of one obligation. -/

namespace Sys2Proof.Tests

open Sys2Proof Sys2Proof.Machine

/-! ### Helpers -/

/-- The next state, if there is one. -/
def nextOf (o : Host.Outcome State Fault Refusal) : Option State :=
  match o with
  | .next t => some t
  | .fault _ => none
  | .refused _ => none

/-- A byte string from numbers. -/
def bytes (l : List Nat) : Bytes := l.map (BitVec.ofNat 8)

/-- The reset state with a byte string in memory from a window offset on. -/
def loaded (base : Nat) (l : List Nat) : State :=
  { State.reset with mem := Memory.writeBytes [] base (bytes l) }

/-- The reset state with a secret and a time. -/
def withSecret (l : List Nat) (t : Nat) : State :=
  { loaded 0x100 l with
    secretLen := BitVec.ofNat 16 l.length
    timeLo := BitVec.ofNat 32 t
    timeHi := BitVec.ofNat 32 (t >>> 32) }

/-- The reset state with a command word in flight. -/
def inFlight (w : Word) : State := { State.reset with pend := w, busy := true }

/-- "GEZDGNBVGY3TQOJQ" as ASCII; the secret of 95_test_vectors.md E3 is this twice. -/
def halfSecret : List Nat :=
  [0x47, 0x45, 0x5A, 0x44, 0x47, 0x4E, 0x42, 0x56, 0x47, 0x59, 0x33, 0x54, 0x51, 0x4F, 0x4A, 0x51]

/-- The number a register reads as. -/
def readNat (s : State) (r : Reg) : Nat := (regValue s r).toNat

/-! ### Decoding: words written out from 30_encoding.md R76 (bits [31:4] rsvd, [3:0] op) and R77 -/

theorem test_decode_b32dec : decode 0b00000000000000000000000000000001 = .ok .b32dec := by decide
theorem test_decode_tstep : decode 0b00000000000000000000000000000010 = .ok .tstep := by decide
theorem test_decode_hmac : decode 0b00000000000000000000000000000011 = .ok .hmac := by decide
theorem test_decode_trunc : decode 0b00000000000000000000000000000100 = .ok .trunc := by decide
theorem test_decode_fmt : decode 0b00000000000000000000000000000101 = .ok .fmt := by decide
theorem test_decode_gen : decode 0b00000000000000000000000000000110 = .ok .gen := by decide
theorem test_decode_trem : decode 0b00000000000000000000000000000111 = .ok .trem := by decide

/-- 95_test_vectors.md 3.8: op = 6 with rsvd = 1 is not GEN, and 0x80000003 is not HMAC. -/
theorem test_decode_reserved :
    decode 0x00000016 = .error (.reservedBits 1) ∧ decode 0x80000003 = .error (.reservedBits 0x8000000) := by decide

/-- 95_test_vectors.md 3.8: opcodes 0x0, 0x8 and 0xF. -/
theorem test_decode_undefined :
    decode 0x00000000 = .error (.undefinedOpcode 0) ∧ decode 0x00000008 = .error (.undefinedOpcode 8)
      ∧ decode 0x0000000F = .error (.undefinedOpcode 15) := by decide

/-- A number of more than 32 bits is no command word. -/
theorem test_decode_table_word_too_long :
    decodeTableWord 64 0x100000006 = none ∧ decodeTableWord 32 0x100000006 = some .gen := by decide

/-! ### Well-formedness: an ill-formed term for each check -/

theorem test_wf_refuses_reserved : CmdFields.wf { op := 6, rsvd := 1 } = false := by decide
theorem test_wf_refuses_op_0 : CmdFields.wf { op := 0, rsvd := 0 } = false := by decide
theorem test_wf_refuses_op_8 : CmdFields.wf { op := 8, rsvd := 0 } = false := by decide
theorem test_wf_accepts_ends : CmdFields.wf { op := 1, rsvd := 0 } = true ∧ CmdFields.wf { op := 7, rsvd := 0 } = true := by
  decide

/-- 42_timestep.md R116 and 10_state.md R30: a time beyond TIME, and byte strings beyond their buffers. -/
theorem test_wf_pseudo :
    Pseudo.wf (.setTime (2 ^ 64)) = false ∧ Pseudo.wf (.setTime (2 ^ 64 - 1)) = true
      ∧ Pseudo.wf (.loadB .msg (List.replicate 65 0)) = false ∧ Pseudo.wf (.loadB .msg (List.replicate 64 0)) = true
      ∧ Pseudo.wf (.readB .digest 21) = false ∧ Pseudo.wf (.readB .digest 20) = true := by decide +kernel

/-! ### The commands -/

/-- 95_test_vectors.md 2.3: "MZXW6===" is 66 6f 6f; the padding is skipped. -/
theorem test_b32dec_foo :
    (nextOf (exec .b32dec (withSecret [0x4D, 0x5A, 0x58, 0x57, 0x36, 0x3D, 0x3D, 0x3D] 0))).map
      (fun t => (t.keyLen, readNat t (.keyW 0), t.err)) = some (3, 0x666F6F00, .ok) := by decide +kernel

/-- 95_test_vectors.md 3.1: SECRET_LEN = 129 fails with LEN and leaves KEY and KEY_LEN. -/
theorem test_b32dec_too_long :
    (nextOf (exec .b32dec { loaded 0x180 [0x55] with secretLen := 129, keyLen := 1 })).map
      (fun t => (t.keyLen, readNat t (.keyW 0), readNat t .status)) = some (1, 0x55000000, 0x22) := by decide +kernel

/-- 95_test_vectors.md 3.2: TIME = 59. -/
theorem test_tstep_59 :
    (nextOf (exec .tstep { State.reset with timeLo := 59 })).map
      (fun t => (readNat t .tstepHi, readNat t .tstepLo, readNat t (.msgW 0), readNat t (.msgW 1), t.msgLen))
      = some (0, 1, 0, 1, 8) := by decide +kernel

/-- 95_test_vectors.md 3.2: TIME = 2^64 - 1. -/
theorem test_tstep_max :
    (nextOf (exec .tstep { State.reset with timeLo := 0xFFFFFFFF, timeHi := 0xFFFFFFFF })).map
      (fun t => (readNat t .tstepHi, readNat t .tstepLo, readNat t (.msgW 0), readNat t (.msgW 1)))
      = some (0x08888888, 0x88888888, 0x08888888, 0x88888888) := by decide +kernel

/-- 95_test_vectors.md 2.1: SHA-1 of "abc". -/
theorem test_sha1_abc :
    sha1Words (bytes [0x61, 0x62, 0x63])
      = { a := 0xA9993E36, b := 0x4706816A, c := 0xBA3E2571, d := 0x7850C26C, e := 0x9CD0D89D } := by decide +kernel

/-- 95_test_vectors.md 2.2 case 2: key "Jefe", message "what do ya want for nothing?". -/
theorem test_hmac_jefe :
    hmacSha1 (bytes [0x4A, 0x65, 0x66, 0x65])
        (bytes ([0x77, 0x68, 0x61, 0x74, 0x20, 0x64, 0x6F, 0x20, 0x79, 0x61, 0x20, 0x77, 0x61, 0x6E]
          ++ [0x74, 0x20, 0x66, 0x6F, 0x72, 0x20, 0x6E, 0x6F, 0x74, 0x68, 0x69, 0x6E, 0x67, 0x3F]))
      = bytes ([0xEF, 0xFC, 0xDF, 0x6A, 0xE5, 0xEB, 0x2F, 0xA2, 0xD2, 0x74]
          ++ [0x16, 0xD5, 0xF1, 0x84, 0xDF, 0x9C, 0x25, 0x9A, 0x7C, 0x79]) := by decide +kernel

/-- 95_test_vectors.md 3.3: MSG_LEN = 65 and KEY_LEN = 81 fail with LEN; DIGEST keeps its value. -/
theorem test_hmac_too_long :
    (nextOf (exec .hmac { loaded 0x048 [0x77] with msgLen := 65 })).map
        (fun t => (readNat t (.digest 0), readNat t .status)) = some (0x77000000, 0x22)
      ∧ (nextOf (exec .hmac { State.reset with keyLen := 81 })).map (fun t => t.err) = some .len := by decide +kernel

/-- 95_test_vectors.md 2.5: RFC 4226 truncation. -/
theorem test_trunc_rfc4226 :
    (nextOf (exec .trunc (loaded 0x048 [0x1F, 0x86, 0x98, 0x69, 0x0E, 0x02, 0xCA, 0x16, 0x61, 0x85, 0x50, 0xEF, 0x7F, 0x19, 0xDA, 0x8E, 0x94, 0x5B, 0x55, 0x5A]))).map
      (fun t => (readNat t .offset, readNat t .bin)) = some (10, 0x50EF7F19) := by decide +kernel

/-- 95_test_vectors.md 3.4: offset 15 reads bytes 15 to 18 and the mask clears the top bit of byte 15. -/
theorem test_trunc_largest_window :
    (nextOf (exec .trunc (loaded 0x048 [0x01, 0x02, 0x03, 0x04, 0x05, 0x06, 0x07, 0x08, 0x09, 0x0A, 0x0B, 0x0C, 0x0D, 0x0E, 0x0F, 0x80, 0xFF, 0x00, 0xFF, 0x0F]))).map
      (fun t => (readNat t .offset, readNat t .bin)) = some (15, 0x00FF00FF) := by decide +kernel

/-- 95_test_vectors.md E4: 7 is "000007". -/
theorem test_fmt_7 :
    (nextOf (exec .fmt { State.reset with bin := 7 })).map
      (fun t => (readNat t .codeNum, readNat t .code0, readNat t .code1)) = some (7, 0x30303030, 0x30370000) := by
  decide +kernel

/-- 95_test_vectors.md 3.5: a host-written BIN above 2^31 is not masked. -/
theorem test_fmt_max :
    (nextOf (exec .fmt { State.reset with bin := 0xFFFFFFFF })).map
      (fun t => (readNat t .codeNum, readNat t .code0, readNat t .code1)) = some (967295, 0x39363732, 0x39350000) := by
  decide +kernel

/-- 95_test_vectors.md E1: the RFC 6238 secret at TIME = 59, run as the step after its acceptance. -/
theorem test_gen_rfc6238 :
    (nextOf (step ((withSecret (halfSecret ++ halfSecret) 59).withFetchWord 32 6))).map
      (fun t => [readNat t .keyLen, readNat t (.keyW 4), readNat t (.digest 4), readNat t .offset, readNat t .bin,
        readNat t .code0, readNat t .code1, readNat t .trem, readNat t .status])
      = some [20, 0x37383930, 0x7A2D33AB, 11, 0x41397EEA, 0x32383730, 0x38320000, 1, 0x02] := by decide +kernel

/-- 95_test_vectors.md 3.6: SECRET_LEN = 129. -/
theorem test_gen_too_long :
    (nextOf (exec .gen { State.reset with secretLen := 129, trem := 5, codeNum := 7 })).map
      (fun t => (readNat t .status, readNat t .trem, readNat t .codeNum)) = some (0x22, 5, 7) := by decide +kernel

/-- 95_test_vectors.md 3.7: TIME = 59 and TIME = 60. -/
theorem test_trem :
    (nextOf (exec .trem { State.reset with timeLo := 59 })).map (fun t => readNat t .trem) = some 1
      ∧ (nextOf (exec .trem { State.reset with timeLo := 60 })).map (fun t => readNat t .trem) = some 30 := by
  decide +kernel

/-- 95_test_vectors.md 3.7: TIME = 2^64 - 1. -/
theorem test_trem_max :
    (nextOf (exec .trem { State.reset with timeLo := 0xFFFFFFFF, timeHi := 0xFFFFFFFF })).map
      (fun t => readNat t .trem) = some 15 := by decide +kernel

/-- 95_test_vectors.md 3.8: CMD = 0x00000016 completes with STATUS = 0x12 and computes no code. -/
theorem test_illegal_word :
    (nextOf (step ((withSecret halfSecret 59).withFetchWord 32 0x16))).map
      (fun t => (readNat t .status, readNat t .codeNum)) = some (0x12, 0) := by decide +kernel

/-! ### The register window: 95_test_vectors.md 3.8 -/

theorem test_read_id : memRead State.reset 0x000 4 = .readOk 0x544F5450 := by decide +kernel
theorem test_read_reserved : memRead State.reset 0x1FC 4 = .readOk 0 := by decide +kernel
theorem test_read_misaligned : memRead State.reset 0x002 4 = .readError 0 := by decide +kernel
theorem test_write_short :
    memWrite State.reset 0x010 2 0x1234 = (State.reset, .writeError) := by decide +kernel
theorem test_write_secret_len : (memWrite State.reset 0x010 4 0x12345678).1.secretLen = 0x5678 := by decide +kernel
theorem test_write_ctrl : readNat (memWrite State.reset 0x004 4 0xFFFFFFFF).1 .ctrl = 1 := by decide +kernel

/-- STATUS with DONE, OVR and ERR = 2, written with 0xFFFFFFFF, reads 0x20. -/
theorem test_write_status :
    readNat (memWrite { State.reset with done := true, ovr := true, err := .len } 0x008 4 0xFFFFFFFF).1 .status = 0x20 := by
  decide +kernel

/-- While BUSY: a TIME_LO write is dropped and sets OVR, a CMD write does not replace the command. -/
theorem test_busy_drops :
    memWrite (inFlight 7) 0x020 4 99 = ({ inFlight 7 with ovr := true }, .writeOk)
      ∧ memWrite (inFlight 7) 0x00C 4 6 = ({ inFlight 7 with ovr := true }, .writeOk) := by decide +kernel

/-- 95_test_vectors.md P1, first two words: LOADB SECRET, "GEZDGNBV". -/
theorem test_loadb :
    (runPseudo (.loadB .secret (bytes (halfSecret.take 8))) State.reset).mem
      = Memory.writeBytes [] 0x100 (bytes [0x47, 0x45, 0x5A, 0x44, 0x47, 0x4E, 0x42, 0x56])
      ∧ readNat (runPseudo (.loadB .secret (bytes (halfSecret.take 8))) State.reset) (.secretW 0) = 0x47455A44 := by
  decide +kernel

/-- 30_encoding.md R86 and the P1 trace: WAIT polls while a TREM command is in flight and ends at the first poll that
finds BUSY = 0. -/
theorem test_wait_polls_until_idle :
    hostTurn Pseudo.wait.expand (inFlight 7) = (Pseudo.wait.expand, { inFlight 7 with response := some (.readOk 1) })
      ∧ (hostTurn Pseudo.wait.expand { State.reset with done := true }) = ([], { State.reset with done := true, response := some (.readOk 2) }) := by
  decide +kernel

/-- 10_state.md R40: reset memory is in canonical form. -/
theorem test_reset_memory_wf : Memory.wf State.reset.mem := by decide

/-! ### Witnesses: concrete states and operands that meet the hypotheses of the obligation named -/

/-- A next state of a command exists. -/
theorem exec_next_exists (i : Instr) (s : State) : ∃ t, exec i s = .next t := ⟨_, exec_eq i s⟩

/-- The completion of a command in flight with an illegal word. -/
theorem engineTurn_illegal : engineTurn (inFlight 0x16) = .next { inFlight 0x16 with err := .illegal, busy := false, done := true } :=
  rfl

theorem witness_DecodeOfEncode : Instr.wf .b32dec = true ∧ Instr.wf .trem = true := by decide

/-- Both sides of the equivalence: reserved bit 4, opcode 0, opcode 8, and the largest legal word. -/
theorem witness_IllegalRaisedExactly :
    (∃ t, (inFlight 0x16).busy = true ∧ engineTurn (inFlight 0x16) = .next t ∧ t.err = .illegal)
      ∧ (∃ t, (inFlight 0x0).busy = true ∧ engineTurn (inFlight 0x0) = .next t ∧ t.err = .illegal)
      ∧ (∃ t, (inFlight 0x8).busy = true ∧ engineTurn (inFlight 0x8) = .next t ∧ t.err = .illegal)
      ∧ ∃ t, (inFlight 0x7).busy = true ∧ engineTurn (inFlight 0x7) = .next t ∧ t.err = .ok :=
  ⟨⟨_, rfl, rfl, rfl⟩, ⟨_, rfl, rfl, rfl⟩, ⟨_, rfl, rfl, rfl⟩, ⟨_, rfl, rfl, rfl⟩⟩

theorem witness_IllegalWordAcceptedThenFails :
    State.reset.busy = false ∧ ((0x10#32).extractLsb' 4 28 ≠ 0#28) ∧ ((0x0#32).extractLsb' 0 4 = 0#4)
      ∧ 8 ≤ ((0x8#32).extractLsb' 0 4).toNat ∧ 8 ≤ ((0xF#32).extractLsb' 0 4).toNat := by decide

theorem witness_StepRunsDecodedCommand :
    (inFlight 6).busy = true ∧ decode (inFlight 6).pend = .ok .gen ∧ (inFlight 6).events = []
      ∧ { inFlight 6 with events := [.engine] }.events = .engine :: [] := by decide

theorem witness_IdleEngineChangesNothing :
    State.reset.busy = false ∧ State.reset.events = [] ∧ { State.reset with events := [.engine] }.events = .engine :: [] := by
  decide

theorem witness_ResetTakesEverything : { inFlight 6 with events := [.reset, .engine] }.events = .reset :: [.engine] := by
  decide

theorem witness_Base32IgnoresCaseAndInvalid : ∀ c ∈ bytes [0x20, 0x3D, 0x30, 0xC3], sym c = none := by decide

/-- The longest secret. -/
theorem witness_Base32BitByBit : (bytes (List.replicate 128 0x41)).length ≤ 128 ∧ 639 < 8 * (b32decode (bytes (List.replicate 128 0x41))).length := by
  decide +kernel

/-- "MZXW6YTB" alone, and after a first group of eight. -/
theorem witness_Base32GroupOfEight :
    (bytes [0x4D, 0x5A, 0x58, 0x57, 0x36, 0x59, 0x54, 0x42]).filterMap sym = [] ++ [12, 25, 23, 22, 30, 24, 19, 1] ++ []
      ∧ (bytes (List.replicate 8 0x41 ++ [0x4D, 0x5A, 0x58, 0x57, 0x36, 0x59, 0x54, 0x42, 0x3D])).filterMap sym
        = List.replicate 8 0 ++ [12, 25, 23, 22, 30, 24, 19, 1] ++ []
      ∧ (List.replicate 8 (0 : BitVec 5)).length % 8 = 0 := by decide

theorem witness_B32decResult :
    Memory.wf (withSecret halfSecret 59).mem ∧ (withSecret halfSecret 59).secretLen.toNat ≤ 128
      ∧ Memory.wf { State.reset with secretLen := 129 }.mem ∧ 128 < { State.reset with secretLen := 129 }.secretLen.toNat := by
  decide +kernel

theorem witness_TstepResult : Memory.wf { State.reset with timeLo := 59 }.mem := by decide

theorem witness_CounterNeverTruncated :
    (0 < 2 ^ 64 ∧ 0 < 128849018880) ∧ (128849018879 < 2 ^ 64 ∧ 128849018879 < 128849018880)
      ∧ (128849018880 < 2 ^ 64 ∧ ¬128849018880 < 128849018880) ∧ 2 ^ 64 - 1 < 2 ^ 64 := by decide

theorem witness_Sha1CompressesBlock : (List.replicate 16 (0x61626380 : Word)).length = 16 := by decide

theorem witness_ZeroKeyIsEmptyKey : (64 : Nat) ≤ 64 := by decide

theorem witness_HmacResult :
    Memory.wf State.reset.mem
      ∧ { State.reset with keyLen := 80, msgLen := 64 }.keyLen.toNat ≤ 80
      ∧ { State.reset with keyLen := 80, msgLen := 64 }.msgLen.toNat ≤ 64
      ∧ 80 < { State.reset with keyLen := 81 }.keyLen.toNat ∧ 64 < { State.reset with msgLen := 65 }.msgLen.toNat := by decide

/-- Two states that differ in KEY[20], beyond KEY_LEN = 20. -/
theorem witness_HmacReadsOnlyWithinLengths :
    let s : State := { State.reset with keyLen := 20, msgLen := 8 }
    let t : State := { s with mem := Memory.write [] 0x194 0xFF }
    Memory.wf s.mem ∧ Memory.wf t.mem ∧ s.keyLen = t.keyLen ∧ s.msgLen = t.msgLen ∧ s.keyLen.toNat ≤ 80
      ∧ s.msgLen.toNat ≤ 64 ∧ s.mem ≠ t.mem
      ∧ (∀ i, i < s.keyLen.toNat → Memory.read s.mem (0x180 + i) = Memory.read t.mem (0x180 + i))
      ∧ (∀ i, i < s.msgLen.toNat → Memory.read s.mem (0x080 + i) = Memory.read t.mem (0x080 + i))
      ∧ (∃ s', exec .hmac s = .next s') ∧ ∃ t', exec .hmac t = .next t' := by
  intro s t
  refine ⟨by decide, by decide, rfl, rfl, by decide, by decide, by decide, by decide, by decide, ?_, ?_⟩
  · exact exec_next_exists _ _
  · exact exec_next_exists _ _

theorem witness_DigitsSpellTheCode : 0 < 1000000 ∧ 999999 < 1000000 := by decide

theorem witness_GenResult :
    Memory.wf (withSecret (halfSecret ++ halfSecret) 59).mem
      ∧ (withSecret (halfSecret ++ halfSecret) 59).secretLen.toNat ≤ 128
      ∧ Memory.wf { State.reset with secretLen := 129 }.mem ∧ 128 < { State.reset with secretLen := 129 }.secretLen.toNat := by
  decide +kernel

/-- The same hypotheses as `GenResult`. -/
theorem witness_GenEqualsSequence :
    Memory.wf { State.reset with secretLen := 128 }.mem ∧ { State.reset with secretLen := 128 }.secretLen.toNat ≤ 128
      ∧ 128 < { State.reset with secretLen := 129 }.secretLen.toNat := by decide

/-- Two states that differ in KEY, KEY_LEN, BIN and in the secret byte just beyond SECRET_LEN. -/
theorem witness_GenDeterministic :
    let s : State := withSecret halfSecret 59
    let t : State := { s with mem := Memory.write (Memory.write s.mem 0x110 0x41) 0x180 0x77, keyLen := 9, bin := 5 }
    Memory.wf s.mem ∧ Memory.wf t.mem ∧ s.secretLen.toNat ≤ 128 ∧ sameGenInputs s t ∧ s.mem ≠ t.mem
      ∧ (∃ s', exec .gen s = .next s') ∧ ∃ t', exec .gen t = .next t' := by
  intro s t
  refine ⟨by decide +kernel, by decide +kernel, by decide +kernel, ?_, by decide +kernel, ?_, ?_⟩
  · exact ⟨rfl, by decide +kernel, rfl, rfl⟩
  · exact exec_next_exists _ _
  · exact exec_next_exists _ _

/-- TIME = 30 and TIME = 59, the two ends of one window. -/
theorem witness_GenStableWithinTimeStep :
    let s : State := withSecret halfSecret 30
    let t : State := withSecret halfSecret 59
    Memory.wf s.mem ∧ Memory.wf t.mem ∧ s.secretLen.toNat ≤ 128 ∧ s.secretLen = t.secretLen
      ∧ bytesAt s 0x100 s.secretLen.toNat = bytesAt t 0x100 t.secretLen.toNat ∧ timeOf s / 30 = timeOf t / 30
      ∧ timeOf s ≠ timeOf t ∧ (∃ s', exec .gen s = .next s') ∧ ∃ t', exec .gen t = .next t' := by
  intro s t
  refine ⟨by decide +kernel, by decide +kernel, by decide +kernel, rfl, rfl, by decide +kernel, by decide +kernel, ?_, ?_⟩
  · exact exec_next_exists _ _
  · exact exec_next_exists _ _

theorem witness_CommandsKeepHostSide : ∃ t, exec .tstep State.reset = .next t := exec_next_exists _ _

theorem witness_RegisterCommandsFrame :
    (∃ t, exec .trunc State.reset = .next t) ∧ (∃ t, exec .fmt State.reset = .next t) ∧ ∃ t, exec .trem State.reset = .next t :=
  ⟨exec_next_exists _ _, exec_next_exists _ _, exec_next_exists _ _⟩

/-- With the boundary addresses of each clause. -/
theorem witness_BufferCommandsFrame :
    (∃ t, exec .b32dec State.reset = .next t) ∧ (0x17F < 0x180 ∨ 0x180 + 80 ≤ 0x17F)
      ∧ (0x180 + 80 < 0x180 ∨ 0x180 + 80 ≤ 0x180 + 80) ∧ (∃ t, exec .tstep State.reset = .next t)
      ∧ (0x07F < 0x080 ∨ 0x080 + 64 ≤ 0x07F) ∧ (0x080 + 64 < 0x080 ∨ 0x080 + 64 ≤ 0x080 + 64)
      ∧ (∃ t, exec .hmac State.reset = .next t) ∧ (0x047 < 0x048 ∨ 0x048 + 20 ≤ 0x047)
      ∧ (0x048 + 20 < 0x048 ∨ 0x048 + 20 ≤ 0x048 + 20) :=
  ⟨exec_next_exists _ _, by decide, by decide, exec_next_exists _ _, by decide, by decide, exec_next_exists _ _, by decide,
    by decide⟩

/-- With a SECRET address, which GEN reads and does not write. -/
theorem witness_GenFrame :
    (∃ t, exec .gen State.reset = .next t) ∧ (0x17F < 0x180 ∨ 0x180 + 80 ≤ 0x17F) ∧ (0x17F < 0x080 ∨ 0x080 + 64 ≤ 0x17F)
      ∧ (0x17F < 0x048 ∨ 0x048 + 20 ≤ 0x17F) :=
  ⟨exec_next_exists _ _, by decide, by decide, by decide⟩

/-- An ILLEGAL and a LEN failure. -/
theorem witness_FailedCommandWritesOnlyStatus :
    (∃ t, (inFlight 0x16).busy = true ∧ engineTurn (inFlight 0x16) = .next t ∧ t.err ≠ .ok)
      ∧ ∃ t, { inFlight 6 with secretLen := 129 }.busy = true
        ∧ engineTurn { inFlight 6 with secretLen := 129 } = .next t ∧ t.err ≠ .ok :=
  ⟨⟨_, rfl, engineTurn_illegal, by decide⟩, ⟨_, rfl, rfl, by decide⟩⟩

/-- Every clause of the right side, and a command that does not fail. -/
theorem witness_LenRaisedExactly :
    (∃ t, exec .b32dec { State.reset with secretLen := 129 } = .next t ∧ t.err = .len)
      ∧ (∃ t, exec .gen { State.reset with secretLen := 129 } = .next t ∧ t.err = .len)
      ∧ (∃ t, exec .hmac { State.reset with keyLen := 81 } = .next t ∧ t.err = .len)
      ∧ (∃ t, exec .hmac { State.reset with msgLen := 65 } = .next t ∧ t.err = .len)
      ∧ ∃ t, exec .trem { State.reset with secretLen := 129 } = .next t ∧ t.err = .ok :=
  ⟨⟨_, rfl, rfl⟩, ⟨_, rfl, rfl⟩, ⟨_, rfl, rfl⟩, ⟨_, rfl, rfl⟩, ⟨_, rfl, rfl⟩⟩

/-- The first and last word of each buffer. -/
theorem witness_RegisterReads :
    bufferWordOffset 0x048 ∧ bufferWordOffset 0x058 ∧ bufferWordOffset 0x080 ∧ bufferWordOffset 0x0BC
      ∧ bufferWordOffset 0x100 ∧ bufferWordOffset 0x17C ∧ bufferWordOffset 0x180 ∧ bufferWordOffset 0x1CC :=
  ⟨by decide, by decide, by decide, by decide, by decide, by decide, by decide, by decide⟩

theorem witness_StepTakesTheTransaction :
    { State.reset with events := [.bus (.read 0x008 4)] }.events = .bus (.read 0x008 4) :: []
      ∧ { State.reset with events := [.bus (.write 0x010 4 32)] }.events = .bus (.write 0x010 4 32) :: [] := by decide

/-- A size that is not 4, and an offset that is not a multiple of 4. -/
theorem witness_NotAdmittedIsBusError :
    ((2 : Nat) ≠ 4 ∨ (0x010 : Offset).toNat % 4 ≠ 0) ∧ ((4 : Nat) ≠ 4 ∨ (0x002 : Offset).toNat % 4 ≠ 0) := by decide

/-- One offset for each clause, at the ends of its ranges. -/
theorem witness_BusyRule :
    (inFlight 6).busy = true ∧ (0x00C : Offset).toNat % 4 = 0 ∧ protectedOffset (0x00C : Offset).toNat
      ∧ protectedOffset (0x048 : Offset).toNat ∧ protectedOffset (0x1CC : Offset).toNat ∧ (0x004 : Offset).toNat % 4 = 0
      ∧ (0x008 : Offset).toNat % 4 = 0 ∧ readOnlyOffset (0x000 : Offset).toNat ∧ readOnlyOffset (0x044 : Offset).toNat
      ∧ reservedOffset (0x03C : Offset).toNat ∧ reservedOffset (0x1D0 : Offset).toNat
      ∧ reservedOffset (0x1FC : Offset).toNat :=
  ⟨by decide, by decide, by decide, by decide, by decide, by decide, by decide, by decide, by decide, by decide, by decide,
    by decide⟩

/-- The clauses of the busy rule exclude each other at every word-aligned offset of the window. -/
theorem busyRule_clauses_disjoint :
    ∀ a, a < 512 → a % 4 = 0 →
      (protectedOffset a → a ≠ 0x004 ∧ a ≠ 0x008 ∧ ¬readOnlyOffset a ∧ ¬reservedOffset a)
        ∧ (readOnlyOffset a → a ≠ 0x004 ∧ a ≠ 0x008 ∧ ¬reservedOffset a)
        ∧ (reservedOffset a → a ≠ 0x004 ∧ a ≠ 0x008)
        ∧ (a = 0x004 ∨ a = 0x008 ∨ protectedOffset a ∨ readOnlyOffset a ∨ reservedOffset a) := by
  intro a h1 h2
  omega

theorem witness_InFlightStateIsStable :
    ∃ t, { inFlight 6 with events := [.bus (.write 0x020 4 99)] }.busy = true
      ∧ { inFlight 6 with events := [.bus (.write 0x020 4 99)] }.events = .bus (.write 0x020 4 99) :: []
      ∧ step { inFlight 6 with events := [.bus (.write 0x020 4 99)] } = .next t := ⟨_, rfl, rfl, rfl⟩

theorem witness_CmdWriteAcceptedOrDropped :
    State.reset.busy = false ∧ decode 0x00000006 = .ok .gen ∧ (inFlight 6).busy = true := by decide

theorem witness_InterruptLevel :
    (∃ t, (inFlight 7).busy = true ∧ engineTurn (inFlight 7) = .next t) ∧ (0x2#32).getLsbD 1 = true
      ∧ State.reset.busy = false := ⟨⟨_, rfl, rfl⟩, by decide, by decide⟩

theorem witness_ReservedAndReadOnlyIgnoreWrites :
    (0x07C : Offset).toNat % 4 = 0 ∧ reservedOffset (0x05C : Offset).toNat ∧ reservedOffset (0x07C : Offset).toNat
      ∧ reservedOffset (0x0C0 : Offset).toNat ∧ reservedOffset (0x0FC : Offset).toNat
      ∧ readOnlyOffset (0x01C : Offset).toNat ∧ readOnlyOffset (0x038 : Offset).toNat := by decide

theorem witness_WriteThenReadBack :
    Memory.wf State.reset.mem ∧ (Reg.keyW 19).access = .rw ∧ Reg.msgLen.access = .rw ∧ State.reset.busy = false
      ∧ Reg.ctrl.access = .rw ∧ ((inFlight 6).busy = false ∨ Reg.ctrl = .ctrl) := by decide

theorem witness_BufferWordWriteFrame :
    Memory.wf State.reset.mem ∧ State.reset.busy = false ∧ bufferWordOffset (0x048 : Offset).toNat
      ∧ bufferWordOffset (0x1CC : Offset).toNat := by decide

theorem witness_RegisterMapBothWays : registerAt 0x000 = some .id ∧ registerAt 0x1CC = some (.keyW 19) := by decide

/-- A dropped write, and a step that leaves OVR as it was. -/
theorem witness_OvrRisesOnlyByDroppedWrite :
    (∃ t, step { inFlight 6 with events := [.bus (.write 0x00C 4 7)] } = .next t ∧ t.ovr = true
        ∧ dropped { inFlight 6 with events := [.bus (.write 0x00C 4 7)] } (.write 0x00C 4 7) = true)
      ∧ ∃ t, step { State.reset with ovr := true } = .next t ∧ t.ovr = true := ⟨⟨_, rfl, rfl, rfl⟩, ⟨_, rfl, rfl⟩⟩

/-- A completion, and a reset while a command is in flight. -/
theorem witness_InFlightEndsByCompletionOrReset :
    (∃ t, (inFlight 7).busy = true ∧ step (inFlight 7) = .next t ∧ t.busy = false)
      ∧ ∃ t, { inFlight 7 with events := [.reset] }.busy = true ∧ step { inFlight 7 with events := [.reset] } = .next t
        ∧ t.busy = false := ⟨⟨_, rfl, rfl, rfl⟩, ⟨_, rfl, rfl, rfl⟩⟩

theorem witness_PseudoInstructionEffects :
    State.reset.busy = false ∧ 2 ^ 64 - 1 < 2 ^ 64 ∧ (inFlight 7).busy = true ∧ 80 ≤ Buffer.capacity .key
      ∧ 19 < (80 + 3) / 4 := by decide

/-- A string that fills MSG, and one that ends inside a word. -/
theorem witness_LoadbLoadsTheBytes :
    Memory.wf State.reset.mem ∧ State.reset.busy = false ∧ (bytes (List.replicate 64 1)).length ≤ Buffer.capacity .msg
      ∧ (bytes [1, 2, 3, 4, 5]).length ≤ Buffer.capacity .digest := by decide

/-- The reset state, and a state that no run reaches. -/
theorem witness_StepKeepsInvariant :
    State.reset.Inv ∧ (∃ t, step State.reset = .next t) ∧ State.Inv { inFlight 7 with trem := 30, tstepHi := 0x0FFFFFFF }
      ∧ ∃ t, step { inFlight 7 with trem := 30, tstepHi := 0x0FFFFFFF } = .next t := by
  exact ⟨by decide, ⟨_, rfl⟩, by decide, ⟨_, rfl⟩⟩

theorem witness_IssuedCommandCompletes :
    { inFlight 6 with events := [.bus (.read 0x008 4), .engine] }.busy = true
      ∧ ∀ e ∈ { inFlight 6 with events := [.bus (.read 0x008 4), .engine] }.events, e ≠ .reset := by decide

end Sys2Proof.Tests
end

section
/-! SUPPORT. A command in flight stays in flight through transactions and ends at the engine's turn
(00_scope.md R19, 10_state.md R36, 20_memory.md R56). -/

namespace Sys2Proof.Machine

/-- Every completion has a defined result (60_exceptions.md R175). -/
theorem exists_completion_eq_next (s : State) : ∃ t, completion s = .next t := by
  unfold completion
  cases decode s.pend with
  | ok i => exact ⟨_, exec_eq i s⟩
  | error e => exact ⟨_, rfl⟩

/-- An admitted write ends no command in flight and leaves its word alone, and it lists no event. -/
theorem writeRegister_keeps_inFlight {s : State} (r : Reg) (v : Word) (hb : s.busy = true) :
    (writeRegister s r v).busy = true ∧ (writeRegister s r v).pend = s.pend
      ∧ (writeRegister s r v).events = s.events := by
  obtain ⟨-, h⟩ | ⟨-, h⟩ | ⟨-, h⟩ | ⟨-, -, -, -, h⟩ | ⟨idle, -⟩ | ⟨idle, -⟩ := writeRegister_cases s r v
  -- an RO register, STATUS, CTRL and a dropped write; the other two cases are of an idle block
  iterate 4 · rw [h]; exact ⟨hb, rfl, rfl⟩
  · simp [hb] at idle
  · simp [hb] at idle

/-- A transaction ends no command in flight and leaves its word alone, and it lists no event. -/
theorem transact_keeps_inFlight {s : State} (b : Transaction) (hb : s.busy = true) :
    (transact s b).busy = true ∧ (transact s b).pend = s.pend ∧ (transact s b).events = s.events := by
  obtain ⟨p, h⟩ | ⟨off, size, v, r, p, -, -, -, h⟩ := transact_cases s b
  · exact h ▸ ⟨hb, rfl, rfl⟩
  · exact h ▸ writeRegister_keeps_inFlight r v hb

/-- The engine's turn, listed or at the end of the list, completes the command in flight: with its results and
ERR = OK, or with an error and nothing written but STATUS (60_exceptions.md R176). -/
theorem step_completes {s : State} (hb : s.busy = true) (he : s.events = [] ∨ ∃ es, s.events = .engine :: es) :
    ∃ t, step s = .next t ∧ t.busy = false ∧ t.done = true
      ∧ (t.err = .ok ∨ t = { onlyStatus s t.err with events := t.events }) := by
  have hstep : step s = completion s.popped := by
    obtain h | ⟨es, h⟩ := he
    · rw [step_of_nil h, State.popped_of_nil h]
      exact if_pos hb
    · rw [step_of_cons h]
      exact if_pos hb
  obtain ⟨t, ht⟩ := exists_completion_eq_next s.popped
  refine ⟨t, hstep.trans ht, ?_⟩
  obtain ⟨-, -, rfl⟩ | ⟨-, -, -, rfl⟩ | ⟨-, -, -, rfl⟩ := completion_cases ht
  · exact ⟨rfl, rfl, .inr rfl⟩
  · exact ⟨rfl, rfl, .inr rfl⟩
  · exact ⟨rfl, rfl, .inl rfl⟩

/-- Settles O60, by induction on the list of events: a transaction keeps the command in flight, and an engine's turn or
the end of the list completes it. -/
theorem issuedCommandCompletes : Obligations.IssuedCommandCompletes := by
  intro s hb hr
  induction hes : s.events generalizing s with
  | nil =>
    obtain ⟨t, ht⟩ := step_completes hb (.inl hes)
    exact ⟨0, s, t, Nat.le_refl 0, rfl, hb, rfl, ht⟩
  | cons e es ih =>
    cases e with
    | reset => exact absurd rfl (hr .reset (by simp [hes]))
    | engine =>
      obtain ⟨t, ht⟩ := step_completes hb (.inr ⟨es, hes⟩)
      exact ⟨0, s, t, Nat.zero_le _, rfl, hb, rfl, ht⟩
    | bus b =>
      have hstep : step s = .next (transact s.popped b) := step_of_cons hes
      obtain ⟨hb', hpend, hevents⟩ := transact_keeps_inFlight (s := s.popped) b hb
      have hes' : (transact s.popped b).events = es := hevents.trans (by simp [State.popped, hes])
      have hr' : ∀ e ∈ (transact s.popped b).events, e ≠ .reset := fun e he =>
        hr e (by rw [hes]; exact List.mem_cons_of_mem _ (hes' ▸ he))
      obtain ⟨k, u, t, hk, hrun, hu, hupend, hcompletes⟩ := ih _ hb' hr' hes'
      exact ⟨k + 1, u, t, Nat.succ_le_succ hk, (core_run_succ k hstep).trans hrun, hu, hupend.trans hpend,
        hcompletes⟩

end Sys2Proof.Machine
end

section
/-! SUPPORT. The register map read both ways, the values its registers read as, and the two registers whose writes have
a rule of their own, CMD and STATUS (10_state.md R22, R26, R27). -/

namespace Sys2Proof.Machine

/-! ### The map -/

/-- Every register is found at its own offset. -/
theorem registerAt_addr (r : Reg) : registerAt r.addr = some r := by
  cases r with
  | digest k => revert k; decide
  | msgW w => revert w; decide
  | secretW w => revert w; decide
  | keyW w => revert w; decide
  | _ => rfl

/-- A word-aligned offset of a buffer of n words is the offset of one of its words. -/
theorem wordOffset_eq {n base a : Nat} [NeZero n] (h4 : a % 4 = 0) (hb : base % 4 = 0)
    (h : base ≤ a ∧ a < base + 4 * n) : base + 4 * (Fin.ofNat n ((a - base) / 4)).val = a := by
  rw [Fin.val_ofNat, Nat.mod_eq_of_lt (by omega)]
  omega

/-- What is found at an offset has that offset. -/
theorem addr_of_registerAt {a : Nat} {r : Reg} (h : registerAt a = some r) : r.addr = a := by
  unfold registerAt at h
  split at h
  case h_18 =>
    -- the last branch of the map: a word of DIGEST, MSG, SECRET or KEY, or nothing
    split_ifs at h <;> cases h
    · exact wordOffset_eq (n := 5) (base := 0x048) (by omega) rfl (by omega)
    · exact wordOffset_eq (n := 16) (base := 0x080) (by omega) rfl (by omega)
    · exact wordOffset_eq (n := 32) (base := 0x100) (by omega) rfl (by omega)
    · exact wordOffset_eq (n := 20) (base := 0x180) (by omega) rfl (by omega)
  all_goals
    cases h
    rfl

/-- Settles O52: the map read from a register and from an offset. -/
theorem registerMapBothWays : Obligations.RegisterMapBothWays :=
  ⟨fun r => ⟨registerAt_addr r, r.addr_aligned, r.addr_lt⟩, fun _ _ => addr_of_registerAt⟩

/-! ### Reads -/

/-- STATUS as a number: BUSY, DONE, OVR, and the number of ERR in bits [7:4] (10_state.md R26). -/
theorem toNat_statusWord (s : State) :
    (statusWord s).toNat = s.busy.toNat + 2 * s.done.toNat + 4 * s.ovr.toNat + 16 * s.err.toBits.toNat := by
  unfold statusWord
  cases s.busy <;> cases s.done <;> cases s.ovr <;> cases s.err <;> rfl

/-- CTRL is its one used bit (10_state.md R25). -/
theorem regValue_ctrl (s : State) : regValue s .ctrl = if s.ie then 1 else 0 := by
  unfold regValue
  cases s.ie <;> rfl

/-- CODE1 has a zero low half (10_state.md R35). -/
theorem regValue_code1 (s : State) : regValue s .code1 = s.code1 ++ 0#16 := by
  have h := s.code1.isLt
  refine BitVec.eq_of_toNat_eq ?_
  rw [regValue, BitVec.toNat_shiftLeft, BitVec.toNat_setWidth, BitVec.toNat_append, BitVec.toNat_ofNat, Nat.or_zero,
    Nat.shiftLeft_eq, Nat.shiftLeft_eq]
  omega

/-- The offset of a buffer word is that of its first byte. -/
theorem bufferAddr_of_bufferWordOffset {a : Nat} (h : bufferWordOffset a) : bufferAddr a := by
  obtain ⟨-, h⟩ := h
  simp only [bufferAddr, Config.digestBase, Config.digestBytes, Config.msgBase, Config.msgMax, Config.secretBase,
    Config.secretMax, Config.keyBase, Config.keyMax]
  omega

/-- A buffer word reads as its four bytes, big-endian (10_state.md R30). -/
theorem memRead_bufferWord (s : State) {off : Offset} (h : bufferWordOffset off.toNat) :
    memRead s off 4 = .readOk (Memory.readWord s.mem off.toNat) := by
  obtain ⟨r, hr, -, -, -, hval⟩ := registerAt_bufferAddr (bufferAddr_of_bufferWordOffset h) h.1
  rw [memRead_of_registerAt s hr h.1, (hval s).1]

/-- Settles O41: each register by its place in the map and its value. -/
theorem registerReads : Obligations.RegisterReads := by
  intro s
  have reads {off : Offset} (r : Reg) (hr : registerAt off.toNat = some r) (h4 : off.toNat % 4 = 0) :
      memRead s off 4 = .readOk (regValue s r) := memRead_of_registerAt s hr h4
  refine ⟨reads .id rfl rfl, ?ctrl, ⟨statusWord s, reads .status rfl rfl, ?status⟩, reads .cmd rfl rfl,
    reads .secretLen rfl rfl, reads .keyLen rfl rfl, reads .msgLen rfl rfl, reads .offset rfl rfl,
    reads .timeLo rfl rfl, reads .timeHi rfl rfl, reads .tstepLo rfl rfl, reads .tstepHi rfl rfl, reads .trem rfl rfl,
    reads .bin rfl rfl, reads .codeNum rfl rfl, reads .code0 rfl rfl, ?code1, fun _ => memRead_bufferWord s⟩
  case ctrl => rw [reads .ctrl rfl rfl, regValue_ctrl]
  case status =>
    rw [toNat_statusWord]
    cases s.err <;> rfl
  case code1 => rw [reads .code1 rfl rfl, regValue_code1]

/-! ### Writes of CMD and STATUS -/

/-- A CMD write while idle is accepted (10_state.md R27). -/
theorem writeRegister_cmd_idle {s : State} (v : Word) (h : s.busy = false) : writeRegister s .cmd v = s.accept v := by
  simp [writeRegister, Reg.access, h]

/-- The engine's turn runs the command that pend decodes to (10_state.md R36). -/
theorem engineTurn_of_decode {s : State} {i : Instr} (hb : s.busy = true) (hi : decode s.pend = .ok i) :
    engineTurn s = exec i s := by
  simp [engineTurn, completion, hb, hi]

/-- The engine's turn while no command is in flight (60_exceptions.md R197). -/
theorem engineTurn_of_idle {s : State} (hb : s.busy = false) : engineTurn s = .next s := by
  simp [engineTurn, hb]

/-- Settles O46: acceptance while idle, the busy rule otherwise. -/
theorem cmdWriteAcceptedOrDropped : Obligations.CmdWriteAcceptedOrDropped := by
  intro s v
  have hcmd : registerAt (0x00C : Offset).toNat = some .cmd := rfl
  refine ⟨fun idle => ⟨?_, fun i hi => engineTurn_of_decode rfl hi⟩, fun busy => ?_,
    memRead_of_registerAt s hcmd rfl, rfl⟩
  · rw [memWrite_of_registerAt s v hcmd rfl, writeRegister_cmd_idle v idle]
    rfl
  · rw [memWrite_of_registerAt s v hcmd rfl, writeRegister_busy v busy (by decide) (by decide) (by decide)]
    rfl

/-- A flag written with 1 to clear it. -/
theorem and_not_eq_ite (flag clear : Bool) : (flag && !clear) = if clear then false else flag := by
  cases clear <;> simp

/-- Settles O47: the state after the write is `clearStatus`. -/
theorem statusWriteOneToClear : Obligations.StatusWriteOneToClear := fun s v =>
  ⟨s.clearStatus v, memWrite_of_registerAt s v (r := .status) rfl rfl, rfl,
    and_not_eq_ite s.done _, and_not_eq_ite s.ovr _⟩

end Sys2Proof.Machine
end

section
/-! SUPPORT. What the completion of a command leaves unchanged (10_state.md R37, R38). -/

namespace Sys2Proof.Machine

/-! ### The host's side -/

theorem sameHostSide_refl (s : State) : sameHostSide s s := ⟨rfl, rfl, rfl, rfl, rfl, rfl, rfl, rfl⟩

/-- A completion's flags are not of the host's side. -/
theorem sameHostSide_complete {s t : State} (h : sameHostSide s t) (c : ErrCode) : sameHostSide s (t.complete c) := h

/-- Settles O35: a completion is the failed one or the commit of the command's results, and both keep the host's side. -/
theorem commandsKeepHostSide : Obligations.CommandsKeepHostSide := by
  intro i s t h
  obtain ⟨-, rfl⟩ | ⟨-, rfl⟩ := exec_next h
  · exact ⟨sameHostSide_complete (sameHostSide_refl s) .len, rfl, rfl⟩
  · exact ⟨sameHostSide_complete (results_hostSide i s) .ok, rfl, rfl⟩

/-- The same of a completion of any CMD word: an illegal one keeps the host's side too. -/
theorem completion_keeps_hostSide {s t : State} (h : completion s = .next t) :
    sameHostSide s t ∧ t.busy = false ∧ t.done = true := by
  unfold completion at h
  split at h
  · exact commandsKeepHostSide _ s t h
  · injection h with h
    exact h ▸ ⟨sameHostSide_complete (sameHostSide_refl s) .illegal, rfl, rfl⟩

/-! ### The commands that write registers alone -/

/-- A command that cannot fail commits its results. -/
theorem eq_commit_of_exec {i : Instr} {s t : State} (hok : failsLen i s = false) (h : exec i s = .next t) :
    t = commit (results i s) := by
  rw [exec_of_ok hok] at h
  injection h with h
  exact h.symm

/-- Settles O36: none of the three can fail, and their results are updates of registers. -/
theorem registerCommandsFrame : Obligations.RegisterCommandsFrame := by
  intro s t
  refine ⟨fun h => ?trunc, fun h => ?fmt, fun h => ?trem⟩
  all_goals
    obtain rfl := eq_commit_of_exec rfl h
    exact ⟨rfl, fun _ => rfl⟩

/-! ### The commands that write a buffer -/

/-- A commit writes STATUS beside the results, no byte of memory. -/
@[simp] theorem commit_mem (s : State) : (commit s).mem = s.mem := rfl

/-- KEY written leaves every byte outside it alone. -/
theorem State.read_putKey_outside (s : State) (k : Bytes) {a : Nat} (h : a < 0x180 ∨ 0x180 + 80 ≤ a) :
    Memory.read (s.putKey k).mem a = Memory.read s.mem a := by
  rw [State.putKey_mem]
  exact Memory.read_writeBytes_outside (by simpa using h)

/-- MSG written leaves every byte outside it alone. -/
theorem State.read_putCounter_outside (s : State) (ts : Nat) {a : Nat} (h : a < 0x080 ∨ 0x080 + 64 ≤ a) :
    Memory.read (s.putCounter ts).mem a = Memory.read s.mem a := by
  rw [State.putCounter_mem]
  exact Memory.read_writeBytes_outside (by simpa using h)

/-- DIGEST written leaves every byte outside it alone. -/
theorem State.read_putDigest_outside (s : State) (d : Bytes) {a : Nat} (h : a < 0x048 ∨ 0x048 + 20 ≤ a) :
    Memory.read (s.putDigest d).mem a = Memory.read s.mem a := by
  rw [State.putDigest_mem]
  exact Memory.read_writeBytes_outside (by simpa using h)

/-- The registers that KEY's commit can change. -/
theorem commit_putKey_frame (s : State) (k : Bytes) {t : State} (h : t = commit (s.putKey k)) :
    t = { s with mem := t.mem, keyLen := t.keyLen, err := t.err, busy := t.busy, done := t.done } := by
  subst h
  simp only [commit, State.complete, State.putKey]

/-- The registers that the counter's commit can change. -/
theorem commit_putCounter_frame (s : State) (ts : Nat) {t : State} (h : t = commit (s.putCounter ts)) :
    t = { s with
      mem := t.mem, tstepLo := t.tstepLo, tstepHi := t.tstepHi, msgLen := t.msgLen, err := t.err, busy := t.busy,
      done := t.done } := by
  subst h
  simp only [commit, State.complete, State.putCounter]

/-- The registers that the digest's commit can change. -/
theorem commit_putDigest_frame (s : State) (d : Bytes) {t : State} (h : t = commit (s.putDigest d)) :
    t = { s with mem := t.mem, err := t.err, busy := t.busy, done := t.done } := by
  subst h
  simp only [commit, State.complete, State.putDigest]

/-- Settles O37: a failed B32DEC or HMAC writes STATUS alone; what succeeds, the command's own buffer and registers. -/
theorem bufferCommandsFrame : Obligations.BufferCommandsFrame := by
  intro s t
  refine ⟨fun h => ?b32dec, fun h => ?tstep, fun h => ?hmac⟩
  case b32dec =>
    obtain ⟨-, rfl⟩ | ⟨-, rfl⟩ := exec_next h
    · exact ⟨rfl, fun _ _ => rfl⟩
    · refine ⟨commit_putKey_frame s _ (by rw [results]), fun _ ha => ?_⟩
      rw [commit_mem, results, s.read_putKey_outside _ ha]
  case tstep =>
    obtain rfl := eq_commit_of_exec rfl h
    refine ⟨commit_putCounter_frame s _ (by rw [results]), fun _ ha => ?_⟩
    rw [commit_mem, results, s.read_putCounter_outside _ ha]
  case hmac =>
    obtain ⟨-, rfl⟩ | ⟨-, rfl⟩ := exec_next h
    · exact ⟨rfl, fun _ _ => rfl⟩
    · refine ⟨commit_putDigest_frame s _ (by rw [results]), fun _ ha => ?_⟩
      rw [commit_mem, results, s.read_putDigest_outside _ ha]

/-- GEN's results leave every byte outside KEY, MSG and DIGEST alone. -/
theorem State.read_putGenerated_outside (s : State) (secret : Bytes) (T : Nat) {a : Nat}
    (hkey : a < 0x180 ∨ 0x180 + 80 ≤ a) (hmsg : a < 0x080 ∨ 0x080 + 64 ≤ a) (hdigest : a < 0x048 ∨ 0x048 + 20 ≤ a) :
    Memory.read (s.putGenerated secret T).mem a = Memory.read s.mem a := by
  rw [State.putGenerated_eq s secret T rfl rfl rfl, State.putRemaining_mem, State.putFormatted_mem,
    State.putTruncated_mem, State.read_putDigest_outside _ _ hdigest, State.read_putCounter_outside _ _ hmsg,
    State.read_putKey_outside _ _ hkey]

/-- Settles O38: the host's side as for every command, the bytes by GEN's three buffers. -/
theorem genFrame : Obligations.GenFrame := by
  intro s t h
  refine ⟨(commandsKeepHostSide .gen s t h).1, fun a hkey hmsg hdigest => ?_⟩
  obtain ⟨-, rfl⟩ | ⟨-, rfl⟩ := exec_next h
  · rfl
  · rw [commit_mem, results, s.read_putGenerated_outside _ _ hkey hmsg hdigest]

end Sys2Proof.Machine
end

section
/-! SUPPORT. Steps: the engine's turn, what raises OVR and what ends a command in flight (10_state.md R26, R36). -/

namespace Sys2Proof.Machine

/-- The state in which a listed event takes place. -/
theorem State.popped_of_cons {s : State} {e : Event} {es : List Event} (h : s.events = e :: es) :
    s.popped = { s with events := es } := by
  simp only [State.popped, h, List.tail_cons]

/-! ### The engine's turn -/

/-- Settles O6: the engine's turn, listed or not, is the completion of the decoded command. -/
theorem stepRunsDecodedCommand : Obligations.StepRunsDecodedCommand := by
  intro s i es hb hi
  refine ⟨fun he => ?_, fun he => ?_⟩
  · rw [step_of_cons he, State.popped_of_cons he]
    exact engineTurn_of_decode hb hi
  · rw [step_of_nil he]
    exact engineTurn_of_decode hb hi

/-- Settles O8: an idle block has no completion. -/
theorem idleEngineChangesNothing : Obligations.IdleEngineChangesNothing := by
  intro s es hb
  refine ⟨fun he => ?_, fun he => ?_⟩
  · rw [step_of_cons he, State.popped_of_cons he]
    exact engineTurn_of_idle hb
  · rw [step_of_nil he]
    exact engineTurn_of_idle hb

/-! ### OVR -/

/-- The registers that the busy rule protects are those no earlier rule takes (20_memory.md R56). -/
theorem Reg.busyProtected_iff (r : Reg) : r.busyProtected = true ↔ r.access ≠ .ro ∧ r ≠ .status ∧ r ≠ .ctrl := by
  cases r <;> simp [Reg.busyProtected, Reg.access]

/-- An admitted write that raises OVR is one that the busy rule drops. -/
theorem ovr_of_writeRegister {s : State} {r : Reg} {v : Word} (h : (writeRegister s r v).ovr = true) :
    s.ovr = true ∨ (s.busy = true ∧ r.busyProtected = true) := by
  obtain ⟨-, e⟩ | ⟨-, e⟩ | ⟨-, e⟩ | ⟨busy, hro, hstatus, hctrl, -⟩ | ⟨-, -, e⟩ | ⟨-, -, -, e⟩ :=
    writeRegister_cases s r v
  · exact .inl (e ▸ h)
  · rw [e, State.clearStatus_ovr, Bool.and_eq_true] at h
    exact .inl h.1
  · rw [e] at h
    exact .inl h
  · exact .inr ⟨busy, r.busyProtected_iff.2 ⟨hro, hstatus, hctrl⟩⟩
  · rw [e, State.accept_ovr] at h
    exact .inl h
  · obtain ⟨-, -, -, hovr, -⟩ := setReg_keeps s r (v &&& r.usedBits)
    rw [e, hovr] at h
    exact .inl h

/-- A transaction that raises OVR is a dropped one (60_exceptions.md R182). -/
theorem ovr_of_transact {s : State} {b : Transaction} (h : (transact s b).ovr = true) :
    s.ovr = true ∨ dropped s b = true := by
  obtain ⟨p, e⟩ | ⟨off, size, v, r, p, hb, ha, hr, e⟩ := transact_cases s b
  · rw [e] at h
    exact .inl h
  · rw [e] at h
    refine (ovr_of_writeRegister h).imp_right fun ⟨busy, hp⟩ => ?_
    exact (dropped_iff s b).2 ⟨busy, off, size, v, r, hb, ha, hr, hp⟩

/-- A dropped transaction sets OVR (20_memory.md R56). -/
theorem transact_ovr_of_dropped {s : State} {b : Transaction} (h : dropped s b = true) :
    (transact s b).ovr = true := by
  obtain ⟨busy, off, size, v, r, rfl, ha, hr, hp⟩ := (dropped_iff s b).1 h
  obtain ⟨hro, hstatus, hctrl⟩ := r.busyProtected_iff.1 hp
  simp [transact, memWrite, ha, hr, writeRegister_busy v busy hro hstatus hctrl]

/-- Settles O53: a reset clears OVR, the engine's turn keeps it, and of the transactions a dropped one raises it. -/
theorem ovrRisesOnlyByDroppedWrite : Obligations.OvrRisesOnlyByDroppedWrite := by
  intro s t h
  refine ⟨fun hovr => ?rises, fun b es he hd => ?dropped⟩
  case rises =>
    obtain ⟨es, -, rfl⟩ | ⟨b, es, he, rfl⟩ | ⟨-, -, rfl⟩ | ⟨-, -, hc⟩ := step_cases h
    · cases hovr
    · exact (ovr_of_transact hovr).imp_right fun hd => ⟨b, es, he, hd⟩
    · exact .inl hovr
    · obtain ⟨⟨-, keeps, -⟩, -⟩ := completion_keeps_hostSide hc
      exact .inl (keeps.symm.trans hovr)
  case dropped =>
    rw [step_of_cons he] at h
    injection h with h
    exact h ▸ transact_ovr_of_dropped (s := s.popped) hd

/-! ### The end of a command in flight -/

/-- Settles O54: a transaction leaves the command in flight, and the engine's turn completes it. -/
theorem inFlightEndsByCompletionOrReset : Obligations.InFlightEndsByCompletionOrReset := by
  intro s t hb h hidle
  obtain ⟨es, he, -⟩ | ⟨b, es, -, rfl⟩ | ⟨-, idle, -⟩ | ⟨he, -, hc⟩ := step_cases h
  · exact .inr ⟨es, he⟩
  · obtain ⟨busy, -⟩ := transact_keeps_inFlight (s := s.popped) b hb
    exact absurd busy (by simp [hidle])
  · exact absurd hb (by simp [idle])
  · obtain ⟨-, -, done⟩ := completion_keeps_hostSide hc
    exact .inl ⟨done, he⟩

end Sys2Proof.Machine
end

section
/-! SUPPORT. The block's invariant (`State.Inv`): the reset state meets it, and every update, so every step, keeps it
(10_state.md R33, R35, R36, R40; 42_timestep.md R112). -/

namespace Sys2Proof.Machine

/-- Four bytes at their reset value are a zero word. -/
theorem regValue_digest_reset (k : Fin 5) : regValue State.reset (.digest k) = 0 := by
  have hmem : State.reset.mem = [] := rfl
  rw [regValue, Memory.readWord, hmem]
  simp only [Memory.read_nil]
  rfl

/-- Settles O10: the table, row by row. -/
theorem resetValues : Obligations.ResetValues :=
  ⟨rfl, rfl, rfl, rfl, rfl, rfl, rfl, rfl, rfl, rfl, rfl, rfl, rfl, rfl, rfl, rfl, rfl, rfl, rfl, rfl,
    regValue_digest_reset, Memory.read_nil, rfl⟩

/-- Settles O58: empty memory, idle, and no code yet. -/
theorem resetMeetsInvariant : Obligations.ResetMeetsInvariant :=
  ⟨Memory.wf_nil, fun _ hc => absurd hc List.not_mem_nil, by decide, by decide, .inl ⟨rfl, rfl, rfl⟩, by decide⟩

/-! ### The ranges of the results -/

/-- TREM's value is at most 30 (10_state.md R33). -/
theorem toNat_secondsRemaining_le (T : Nat) : (secondsRemaining T).toNat ≤ 30 := by
  simp only [secondsRemaining, BitVec.toNat_ofNat, Config.period]
  omega

/-- The time step of TIME is below 2^60 (42_timestep.md R112). -/
theorem timeStep_timeOperand_lt (s : State) : timeStep (timeOperand s) < 2 ^ 60 := by
  have := timeOperand_lt s
  simp only [timeStep, Config.period]
  omega

/-! ### Every update keeps the invariant -/

section
variable {s : State}

/-- Bytes written at buffer addresses. -/
theorem State.Inv.writeBytes (hs : s.Inv) {a : Nat} {bs : Bytes}
    (ha : ∀ b, a ≤ b → b < a + bs.length → bufferAddr b) :
    State.Inv { s with mem := Memory.writeBytes s.mem a bs } := by
  obtain ⟨hwf, hbuf, hrest⟩ := hs
  refine ⟨Memory.wf_writeBytes hwf a bs, fun c hc => ?_, hrest⟩
  obtain ⟨lo, hi⟩ | hc := Memory.mem_writeBytes hc
  · exact ha c.1 lo hi
  · exact hbuf c hc

/-- A whole buffer word written. -/
theorem State.Inv.writeWord (hs : s.Inv) {a : Nat} (ha : bufferAddr a) (h4 : a % 4 = 0) (v : Word) :
    State.Inv { s with mem := Memory.writeWord s.mem a v } := by
  refine hs.writeBytes fun b lo hi => ?_
  rw [length_be32bytes] at hi
  simp only [bufferAddr, Config.digestBase, Config.digestBytes, Config.msgBase, Config.msgMax, Config.secretBase,
    Config.secretMax, Config.keyBase, Config.keyMax] at ha ⊢
  omega

theorem State.Inv.putKey (hs : s.Inv) (k : Bytes) : (s.putKey k).Inv :=
  hs.writeBytes (a := Config.keyBase) (bs := padTo Config.keyMax k) fun b lo hi =>
    .inr (.inr (.inr ⟨lo, by rwa [length_padTo] at hi⟩))

theorem State.Inv.putDigest (hs : s.Inv) (d : Bytes) : (s.putDigest d).Inv :=
  hs.writeBytes (a := Config.digestBase) (bs := padTo Config.digestBytes d) fun b lo hi =>
    .inl ⟨lo, by rwa [length_padTo] at hi⟩

theorem State.Inv.putCounter (hs : s.Inv) {ts : Nat} (hts : ts < 2 ^ 60) : (s.putCounter ts).Inv := by
  obtain ⟨hwf, hbuf, hflags, htrem, hcode, -⟩ :=
    hs.writeBytes (a := Config.msgBase) (bs := padTo Config.msgMax (be64bytes ts)) fun b lo hi =>
      .inr (.inl ⟨lo, by rwa [length_padTo] at hi⟩)
  refine ⟨hwf, hbuf, hflags, htrem, hcode, ?_⟩
  rw [State.putCounter_tstepHi, BitVec.toNat_ofNat, Nat.shiftRight_eq_div_pow]
  omega

theorem State.Inv.putTruncated (hs : s.Inv) (off : BitVec 4) (b : Word) : (s.putTruncated off b).Inv := hs

theorem State.Inv.putFormatted (hs : s.Inv) (b : Nat) : (s.putFormatted (reduceCode b)).Inv := by
  obtain ⟨hwf, hbuf, hflags, htrem, -, htstep⟩ := hs
  refine ⟨hwf, hbuf, hflags, htrem, .inr ?_, htstep⟩
  rw [State.putFormatted_codeNum, State.putFormatted_code0, State.putFormatted_code1, toNat_codeNum]
  exact ⟨reduceCode_lt b, rfl, rfl⟩

theorem State.Inv.putRemaining (hs : s.Inv) (T : Nat) : (s.putRemaining (secondsRemaining T)).Inv := by
  obtain ⟨hwf, hbuf, hflags, -, hcode, htstep⟩ := hs
  exact ⟨hwf, hbuf, hflags, toNat_secondsRemaining_le T, hcode, htstep⟩

theorem State.Inv.putGenerated (hs : s.Inv) (secret : Bytes) {T : Nat} (hT : timeStep T < 2 ^ 60) :
    (s.putGenerated secret T).Inv := by
  rw [State.putGenerated_eq s secret T rfl rfl rfl]
  exact (((((hs.putKey _).putCounter hT).putDigest _).putTruncated _ _).putFormatted _).putRemaining T

/-! ### Completions -/

/-- A completion sets DONE and clears BUSY together (10_state.md R36). -/
theorem State.Inv.complete (hs : s.Inv) (c : ErrCode) : (s.complete c).Inv := by
  obtain ⟨hwf, hbuf, -, hrest⟩ := hs
  exact ⟨hwf, hbuf, fun ⟨hb, _⟩ => Bool.false_ne_true hb, hrest⟩

theorem State.Inv.results (hs : s.Inv) (i : Instr) : (results i s).Inv := by
  cases i with
  | b32dec => exact hs.putKey _
  | tstep => exact hs.putCounter (timeStep_timeOperand_lt s)
  | hmac => exact hs.putDigest _
  | trunc => exact hs.putTruncated _ _
  | fmt => exact hs.putFormatted _
  | gen => exact hs.putGenerated _ (timeStep_timeOperand_lt s)
  | trem => exact hs.putRemaining _

theorem State.Inv.of_completion (hs : s.Inv) {t : State} (h : completion s = .next t) : t.Inv := by
  obtain ⟨-, -, rfl⟩ | ⟨-, -, -, rfl⟩ | ⟨i, -, -, rfl⟩ := completion_cases h
  · exact hs.complete .illegal
  · exact hs.complete .len
  · exact (hs.results i).complete .ok

/-! ### Transactions -/

theorem State.Inv.clearStatus (hs : s.Inv) (v : Word) : (s.clearStatus v).Inv := by
  obtain ⟨hwf, hbuf, hflags, hrest⟩ := hs
  refine ⟨hwf, hbuf, fun ⟨hb, hd⟩ => hflags ⟨hb, ?_⟩, hrest⟩
  rw [State.clearStatus_done, Bool.and_eq_true] at hd
  exact hd.1

theorem State.Inv.accept (hs : s.Inv) (v : Word) : (s.accept v).Inv := by
  obtain ⟨hwf, hbuf, -, hrest⟩ := hs
  exact ⟨hwf, hbuf, fun ⟨_, hd⟩ => Bool.false_ne_true hd, hrest⟩

/-- From DIGEST0 on every register is a buffer word (10_state.md R22). -/
theorem Reg.bufferAddr_addr {r : Reg} (h : 0x048 ≤ r.addr) : bufferAddr r.addr := by
  cases r <;>
    simp only [Reg.addr, bufferAddr, Config.digestBase, Config.digestBytes, Config.msgBase, Config.msgMax,
      Config.secretBase, Config.secretMax, Config.keyBase, Config.keyMax] at h ⊢ <;>
    omega

theorem State.Inv.writeRegWord (hs : s.Inv) {r : Reg} (hr : 0x048 ≤ r.addr) (v : Word) :
    State.Inv { s with mem := Memory.writeWord s.mem r.addr v } :=
  hs.writeWord (Reg.bufferAddr_addr hr) r.addr_aligned v

theorem State.Inv.setReg (hs : s.Inv) (r : Reg) (v : Word) : (setReg s r v).Inv := by
  cases r with
  | digest k => exact hs.writeRegWord (r := .digest k) (Nat.le_add_right_of_le (by decide)) v
  | msgW w => exact hs.writeRegWord (r := .msgW w) (Nat.le_add_right_of_le (by decide)) v
  | secretW w => exact hs.writeRegWord (r := .secretW w) (Nat.le_add_right_of_le (by decide)) v
  | keyW w => exact hs.writeRegWord (r := .keyW w) (Nat.le_add_right_of_le (by decide)) v
  | _ => exact hs

theorem State.Inv.writeRegister (hs : s.Inv) (r : Reg) (v : Word) : (writeRegister s r v).Inv := by
  obtain ⟨-, h⟩ | ⟨-, h⟩ | ⟨-, h⟩ | ⟨-, -, -, -, h⟩ | ⟨-, -, h⟩ | ⟨-, -, -, h⟩ := writeRegister_cases s r v
  · rwa [h]
  · exact h ▸ hs.clearStatus v
  · rw [h]
    exact hs
  · rw [h]
    exact hs
  · exact h ▸ hs.accept v
  · exact h ▸ hs.setReg r _

theorem State.Inv.transact (hs : s.Inv) (b : Transaction) : (transact s b).Inv := by
  obtain ⟨p, h⟩ | ⟨off, size, v, r, p, -, -, -, h⟩ := transact_cases s b
  · rw [h]
    exact hs
  · rw [h]
    exact hs.writeRegister r v

end

/-! ### Steps -/

/-- Settles O59: what each of the four kinds of step does keeps the invariant. -/
theorem stepKeepsInvariant : Obligations.StepKeepsInvariant := by
  intro s t hs h
  have hp : s.popped.Inv := hs
  obtain ⟨es, -, rfl⟩ | ⟨b, es, -, rfl⟩ | ⟨-, -, rfl⟩ | ⟨-, -, hc⟩ := step_cases h
  · exact resetMeetsInvariant
  · exact hp.transact b
  · exact hp
  · exact hp.of_completion hc

end Sys2Proof.Machine
end

section
/-! SUPPORT. Transactions on the window: where it stands, reads without side effects, the writes that are ignored,
dropped or taken, and what a write taken leaves unchanged (20_memory.md R51 to R56, R63). -/

namespace Sys2Proof.Machine

/-! ### The window -/

/-- Settles O55: BASE is a multiple of 512 and an offset is below 512. -/
theorem windowDecodesLowBits : Obligations.WindowDecodesLowBits := by
  refine ⟨Nat.mul_mod_right 512 _, fun off => BitVec.eq_of_toNat_eq ?_⟩
  have := off.isLt
  simp only [busOffset, platformAddr, Config.base, BitVec.toNat_ofNat]
  omega

/-! ### Reads have no side effect -/

/-- No register shows the response or the events to come. -/
theorem regValue_response_events (s : State) (p : Option BusResponse) (es : List Event) (r : Reg) :
    regValue { s with response := p, events := es } r = regValue s r := by
  cases r <;> rfl

/-- What a read answers does not depend on them either (20_memory.md R52). -/
theorem memRead_response_events (s : State) (p : Option BusResponse) (es : List Event) (off : Offset) (size : Nat) :
    memRead { s with response := p, events := es } off size = memRead s off size := by
  simp only [memRead, regValue_response_events]

/-- Settles O42: the step is the listed transaction, and what a read answers does not depend on the fields it changes. -/
theorem stepTakesTheTransaction : Obligations.StepTakesTheTransaction := by
  intro s off size v es
  refine ⟨fun he => ⟨_, ?read, rfl, memRead_response_events s _ es off size⟩, fun he => ?write⟩
  case read =>
    have hread : memRead { s with events := es } off size = memRead s off size :=
      memRead_response_events s s.response es off size
    rw [step_of_cons he, State.popped_of_cons he, ← hread]
    rfl
  case write =>
    rw [step_of_cons he, State.popped_of_cons he]
    rfl

/-! ### Writes that change no register -/

/-- A register that the host can only read ignores writes (10_state.md R23). -/
theorem writeRegister_readOnly (s : State) {r : Reg} (v : Word) (h : r.access = .ro) : writeRegister s r v = s :=
  if_pos h

/-- At the offset of an RO register stands one. -/
theorem registerAt_readOnlyOffset {a : Nat} (h : readOnlyOffset a) : ∃ r, registerAt a = some r ∧ r.access = .ro := by
  obtain rfl | rfl | rfl | rfl | rfl | rfl | rfl | rfl := h
  all_goals exact ⟨_, rfl, rfl⟩

/-- No register stands at a reserved offset. -/
theorem Reg.not_reservedOffset_addr (r : Reg) : ¬reservedOffset r.addr := by
  cases r <;>
    simp only [reservedOffset, Reg.addr, Config.digestBase, Config.msgBase, Config.secretBase, Config.keyBase] <;>
    omega

theorem registerAt_reservedOffset {a : Nat} (h : reservedOffset a) : registerAt a = none :=
  Option.eq_none_iff_forall_ne_some.2 fun r hr => r.not_reservedOffset_addr (addr_of_registerAt hr ▸ h)

/-- At a protected offset stands a register that the busy rule protects (20_memory.md R56). -/
theorem registerAt_protectedOffset {a : Nat} (h : protectedOffset a) (h4 : a % 4 = 0) :
    ∃ r, registerAt a = some r ∧ r.busyProtected = true := by
  obtain rfl | rfl | rfl | rfl | rfl | rfl | rfl | hbuf := h
  -- CMD, SECRET_LEN, KEY_LEN, MSG_LEN, TIME_LO, TIME_HI and BIN; then the buffer words
  iterate 7 · exact ⟨_, rfl, rfl⟩
  · obtain ⟨r, hr, -, -, hp, -⟩ := registerAt_bufferAddr (bufferAddr_of_bufferWordOffset ⟨h4, hbuf⟩) h4
    exact ⟨r, hr, hp⟩

section
variable (s : State) {off : Offset} (v : Word) (h4 : off.toNat % 4 = 0)
include h4

/-- A write to an RO register does nothing (20_memory.md R53). -/
theorem memWrite_readOnlyOffset (h : readOnlyOffset off.toNat) : memWrite s off 4 v = (s, .writeOk) := by
  obtain ⟨r, hr, hro⟩ := registerAt_readOnlyOffset h
  rw [memWrite_of_registerAt s v hr h4, writeRegister_readOnly s v hro]

/-- A write to a reserved offset does nothing (20_memory.md R55). -/
theorem memWrite_reservedOffset (h : reservedOffset off.toNat) : memWrite s off 4 v = (s, .writeOk) := by
  simp [memWrite, admitted, h4, registerAt_reservedOffset h]

/-- A reserved offset reads 0 (20_memory.md R55). -/
theorem memRead_reservedOffset (h : reservedOffset off.toNat) : memRead s off 4 = .readOk 0 := by
  simp [memRead, admitted, h4, registerAt_reservedOffset h]

/-- A write that the busy rule drops sets OVR alone (20_memory.md R56). -/
theorem memWrite_protectedOffset_busy (hb : s.busy = true) (h : protectedOffset off.toNat) :
    memWrite s off 4 v = (s.dropWrite, .writeOk) := by
  obtain ⟨r, hr, hp⟩ := registerAt_protectedOffset h h4
  obtain ⟨hro, hstatus, hctrl⟩ := r.busyProtected_iff.1 hp
  rw [memWrite_of_registerAt s v hr h4, writeRegister_busy v hb hro hstatus hctrl]

end

/-- Settles O44, by the register that stands at each kind of offset. -/
theorem busyRule : Obligations.BusyRule := by
  intro s off v hb h4
  refine ⟨memWrite_protectedOffset_busy s v h4 hb, ?ctrl, ?status,
    (·.elim (memWrite_readOnlyOffset s v h4) (memWrite_reservedOffset s v h4))⟩
  case ctrl =>
    rintro rfl
    exact memWrite_of_registerAt s v (r := .ctrl) rfl rfl
  case status =>
    rintro rfl
    exact memWrite_of_registerAt s v (r := .status) rfl rfl

/-- Settles O49: no register stands at a reserved offset, and an RO register takes no write. -/
theorem reservedAndReadOnlyIgnoreWrites : Obligations.ReservedAndReadOnlyIgnoreWrites := fun s _ v h4 =>
  ⟨fun h => ⟨memRead_reservedOffset s h4 h, memWrite_reservedOffset s v h4 h⟩, memWrite_readOnlyOffset s v h4⟩

/-! ### Transactions while a command is in flight -/

/-- An admitted write while a command is in flight changes CTRL.IE, DONE and OVR at most. -/
theorem writeRegister_frame_busy {s : State} (r : Reg) (v : Word) (hb : s.busy = true) :
    ∃ ie done ovr, writeRegister s r v = { s with ie, done, ovr } := by
  obtain ⟨-, h⟩ | ⟨-, h⟩ | ⟨-, h⟩ | ⟨-, -, -, -, h⟩ | ⟨idle, -⟩ | ⟨idle, -⟩ := writeRegister_cases s r v
  -- an RO register, STATUS, CTRL and a dropped write; the other two cases are of an idle block
  iterate 4 · exact ⟨_, _, _, h⟩
  · simp [hb] at idle
  · simp [hb] at idle

/-- Settles O45: a transaction is a read, an ignored write or an admitted one. -/
theorem inFlightStateIsStable : Obligations.InFlightStateIsStable := by
  intro s t b es hb he hstep
  rw [step_of_cons he, State.popped_of_cons he] at hstep
  injection hstep with hstep
  obtain ⟨p, h⟩ | ⟨off, size, v, r, p, -, -, -, h⟩ := transact_cases { s with events := es } b
  · rw [← hstep, h]
  · obtain ⟨ie, done, ovr, hw⟩ := writeRegister_frame_busy (s := { s with events := es }) r v hb
    rw [← hstep, h, hw]

/-! ### Buffer words written -/

/-- The bytes of a word, as numbers (00_scope.md R10). -/
theorem toNat_getD_be32bytes (v : Word) {j : Nat} (h : j < 4) :
    ((be32bytes v).getD j 0).toNat = v.toNat / 2 ^ (24 - 8 * j) % 256 := by
  interval_cases j <;> simp [be32bytes, BitVec.extractLsb'_toNat, Nat.shiftRight_eq_div_pow]

/-- A buffer-word write to an idle block is a word written to memory (20_memory.md R53). -/
theorem memWrite_bufferWord {s : State} {off : Offset} (v : Word) (hb : s.busy = false)
    (h : bufferWordOffset off.toNat) :
    memWrite s off 4 v = ({ s with mem := Memory.writeWord s.mem off.toNat v }, .writeOk) := by
  obtain ⟨r, hr, -, -, -, hword⟩ := registerAt_bufferAddr (bufferAddr_of_bufferWordOffset h) h.1
  rw [memWrite_of_registerAt s v hr h.1, (hword s).2 v hb]

/-- Settles O51: the write is one of a word of memory. -/
theorem bufferWordWriteFrame : Obligations.BufferWordWriteFrame := by
  intro s off v hwf hb h
  refine ⟨_, memWrite_bufferWord v hb h, rfl, fun j hj => ?_, fun a ha => Memory.read_writeWord_outside ha⟩
  rw [Memory.read_writeWord_inside hwf v hj, toNat_getD_be32bytes v hj]

/-! ### RW registers written and read back -/

/-- The offset of a register, as the bus carries it. -/
theorem Reg.toNat_offset9 (r : Reg) : r.offset9.toNat = r.addr := by
  rw [Reg.offset9, BitVec.toNat_ofNat, Nat.mod_eq_of_lt r.addr_lt]

theorem registerAt_offset9 (r : Reg) : registerAt r.offset9.toNat = some r := by
  rw [r.toNat_offset9, registerAt_addr]

theorem Reg.offset9_aligned (r : Reg) : r.offset9.toNat % 4 = 0 := by
  rw [r.toNat_offset9, r.addr_aligned]

/-- A read at a register's offset gives its value. -/
theorem memRead_offset9 (s : State) (r : Reg) : memRead s r.offset9 4 = .readOk (regValue s r) :=
  memRead_of_registerAt s (registerAt_offset9 r) r.offset9_aligned

/-- A write at a register's offset is a write to it. -/
theorem memWrite_offset9 (s : State) (r : Reg) (v : Word) :
    memWrite s r.offset9 4 v = (writeRegister s r v, .writeOk) :=
  memWrite_of_registerAt s v (registerAt_offset9 r) r.offset9_aligned

/-- Different registers stand at different offsets, so their words do not overlap. -/
theorem Reg.addr_disjoint {r r' : Reg} (h : r' ≠ r) : r'.addr + 4 ≤ r.addr ∨ r.addr + 4 ≤ r'.addr := by
  have hne : r'.addr ≠ r.addr := fun e => h <| Option.some.inj <| by
    rw [← registerAt_addr r', e, registerAt_addr r]
  have := r.addr_aligned
  have := r'.addr_aligned
  omega

/-- A word written at one register's offset leaves the word at another's alone. -/
theorem Memory.readWord_writeWord_addr_ne (m : Memory) {r r' : Reg} (h : r' ≠ r) (v : Word) :
    Memory.readWord (Memory.writeWord m r.addr v) r'.addr = Memory.readWord m r'.addr := by
  have := Reg.addr_disjoint h
  exact Memory.readWord_congr fun i hi => Memory.read_writeWord_outside (by omega)

/-- A buffer word written leaves every other register's value alone. -/
theorem regValue_writeWord_ne (s : State) {r r' : Reg} (h : r' ≠ r) (v : Word) :
    regValue { s with mem := Memory.writeWord s.mem r.addr v } r' = regValue s r' := by
  cases r' with
  | digest k => exact Memory.readWord_writeWord_addr_ne s.mem h v
  | msgW w => exact Memory.readWord_writeWord_addr_ne s.mem h v
  | secretW w => exact Memory.readWord_writeWord_addr_ne s.mem h v
  | keyW w => exact Memory.readWord_writeWord_addr_ne s.mem h v
  | _ => rfl

/-- An RW data write leaves every other register's value alone. -/
theorem regValue_setReg_ne (s : State) {r r' : Reg} (h : r' ≠ r) (v : Word) :
    regValue (setReg s r v) r' = regValue s r' := by
  cases r with
  | digest k => exact regValue_writeWord_ne s h v
  | msgW w => exact regValue_writeWord_ne s h v
  | secretW w => exact regValue_writeWord_ne s h v
  | keyW w => exact regValue_writeWord_ne s h v
  | _ =>
    -- a register's own field is shown by that register alone
    cases r' <;> simp_all [setReg, regValue, statusWord]

/-- A register that uses all 32 bits stores the whole word (10_state.md R22). -/
theorem and_fullMask (v : Word) : v &&& 0xFFFFFFFF = v := BitVec.and_allOnes

/-- A length register stores the low half of a word (10_state.md R28). -/
theorem setWidth_and_low16 (v : Word) : (v &&& 0x0000FFFF).setWidth 16 = v.extractLsb' 0 16 := by
  rw [BitVec.setWidth_and, ← BitVec.setWidth_eq_extractLsb' (by decide)]
  exact BitVec.and_allOnes

/-- A length stored reads back as the word's used bits. -/
theorem setWidth_setWidth_and_low16 (v : Word) : ((v &&& 0x0000FFFF).setWidth 16).setWidth 32 = v &&& 0x0000FFFF := by
  have h : (v &&& 0x0000FFFF).toNat = v.toNat % 2 ^ 16 := by
    rw [BitVec.toNat_and]
    exact Nat.and_two_pow_sub_one_eq_mod v.toNat 16
  refine BitVec.eq_of_toNat_eq ?_
  rw [BitVec.toNat_setWidth, BitVec.toNat_setWidth, h]
  omega

/-- A value written to an RW data register is its value. -/
theorem regValue_setReg_self {s : State} {r : Reg} (v : Word) (hwf : Memory.wf s.mem) (hrw : r.access = .rw)
    (hctrl : r ≠ .ctrl) : regValue (setReg s r (v &&& r.usedBits)) r = v &&& r.usedBits := by
  cases r with
  | digest k => exact Memory.readWord_writeWord hwf _ _
  | msgW w => exact Memory.readWord_writeWord hwf _ _
  | secretW w => exact Memory.readWord_writeWord hwf _ _
  | keyW w => exact Memory.readWord_writeWord hwf _ _
  | secretLen => exact setWidth_setWidth_and_low16 v
  | keyLen => exact setWidth_setWidth_and_low16 v
  | msgLen => exact setWidth_setWidth_and_low16 v
  | timeLo => rfl
  | timeHi => rfl
  | bin => rfl
  | ctrl => exact absurd rfl hctrl
  | _ => cases hrw

/-- The fields of the RW data registers are all that an RW data write can change. -/
theorem setReg_frame (s : State) (r : Reg) (v : Word) :
    ∃ secretLen keyLen msgLen timeLo timeHi bin mem,
      setReg s r v = { s with secretLen, keyLen, msgLen, timeLo, timeHi, bin, mem } := by
  cases r <;> exact ⟨_, _, _, _, _, _, _, rfl⟩

section
variable {s : State} {r : Reg} (v : Word) (hrw : r.access = .rw) (hb : s.busy = false ∨ r = .ctrl)
include hrw hb

/-- A write to an RW register that is not dropped: CTRL by its own rule, the others masked to their used bits
(20_memory.md R53). -/
theorem writeRegister_rw :
    (r = .ctrl ∧ writeRegister s r v = { s with ie := v.getLsbD 0 })
      ∨ (r ≠ .ctrl ∧ writeRegister s r v = setReg s r (v &&& r.usedBits)) := by
  obtain rfl | hctrl := eq_or_ne r .ctrl
  · exact .inl ⟨rfl, rfl⟩
  · have idle : s.busy = false := hb.resolve_right hctrl
    have hstatus : r ≠ .status := by rintro rfl; cases hrw
    have hcmd : r ≠ .cmd := by rintro rfl; cases hrw
    exact .inr ⟨hctrl, by simp [writeRegister, hrw, hctrl, hstatus, hcmd, idle]⟩

/-- It reads back masked to its used bits. -/
theorem regValue_writeRegister_self (hwf : Memory.wf s.mem) :
    regValue (writeRegister s r v) r = v &&& r.usedBits := by
  obtain ⟨rfl, h⟩ | ⟨hctrl, h⟩ := writeRegister_rw v hrw hb
  · exact h ▸ BitVec.and_one_eq_setWidth_ofBool_getLsbD.symm
  · exact h ▸ regValue_setReg_self v hwf hrw hctrl

/-- It leaves every other register's value alone. -/
theorem regValue_writeRegister_ne {r' : Reg} (hne : r' ≠ r) :
    regValue (writeRegister s r v) r' = regValue s r' := by
  obtain ⟨rfl, h⟩ | ⟨-, h⟩ := writeRegister_rw v hrw hb
  · rw [h]
    cases r' <;> simp_all [regValue, statusWord]
  · exact h ▸ regValue_setReg_ne s hne _

/-- Only the fields of RW registers can change. -/
theorem writeRegister_frame_rw :
    ∃ ie secretLen keyLen msgLen timeLo timeHi bin mem,
      writeRegister s r v = { s with ie, secretLen, keyLen, msgLen, timeLo, timeHi, bin, mem } := by
  obtain ⟨-, h⟩ | ⟨-, h⟩ := writeRegister_rw v hrw hb
  · exact ⟨_, _, _, _, _, _, _, _, h⟩
  · obtain ⟨_, _, _, _, _, _, _, hframe⟩ := setReg_frame s r (v &&& r.usedBits)
    exact ⟨_, _, _, _, _, _, _, _, h.trans hframe⟩

end

/-- Settles O50, by what the write does to a register's own value, to the other registers' values and to the fields. -/
theorem writeThenReadBack : Obligations.WriteThenReadBack := by
  intro s r v hwf hrw hb
  have data (hctrl : r ≠ .ctrl) : writeRegister s r v = setReg s r (v &&& r.usedBits) :=
    ((writeRegister_rw v hrw hb).resolve_left fun h => hctrl h.1).2
  refine ⟨writeRegister s r v, memWrite_offset9 s r v, ?self, fun r' hne => ?other, ?ctrl, ?secretLen, ?keyLen,
    ?msgLen, ?timeLo, ?timeHi, ?bin, ?frame⟩
  case self => exact (memRead_offset9 _ r).trans (by rw [regValue_writeRegister_self v hrw hb hwf])
  case other =>
    calc memRead (writeRegister s r v) r'.offset9 4
      _ = .readOk (regValue (writeRegister s r v) r') := memRead_offset9 _ r'
      _ = .readOk (regValue s r') := by rw [regValue_writeRegister_ne v hrw hb hne]
      _ = memRead s r'.offset9 4 := (memRead_offset9 s r').symm
  case ctrl => rintro rfl; rfl
  case secretLen | keyLen | msgLen => rintro rfl; rw [data nofun, setReg, Reg.usedBits, setWidth_and_low16]
  case timeLo | timeHi | bin => rintro rfl; rw [data nofun, setReg, Reg.usedBits, and_fullMask]
  case frame =>
    obtain ⟨_, _, _, _, _, _, _, _, h⟩ := writeRegister_frame_rw v hrw hb
    rw [h]

end Sys2Proof.Machine
end

section
/-! SUPPORT. Decoding and encoding agree, and which CMD words are illegal (30_encoding.md R76, R77, R80). -/

namespace Sys2Proof

/-! ### Legal words -/

/-- A command's word decodes to it: its reserved bits are 0 and its opcode is the map's entry for it. -/
theorem decode_encode (i : Instr) : decode (encode i) = .ok i :=
  decode_eq_ok.2 ⟨by cases i <;> rfl, by cases i <;> rfl⟩

/-- Settles O2. -/
theorem decodeOfEncode : Obligations.DecodeOfEncode := fun i _ => decode_encode i

/-- The opcode that the map gives to a command is the number of its word. -/
theorem toNat_eq_encode_of_opmap {op : BitVec 4} {i : Instr} (h : opmap op = some i) : op.toNat = (encode i).toNat := by
  unfold opmap at h
  split_ifs at h with h1 h2 h3 h4 h5 h6 h7 <;> cases h
  all_goals
    subst op
    rfl

/-- A word selects a command exactly when it is the command's word (30_encoding.md R77). -/
theorem decode_eq_ok_iff_eq_encode {w : Word} {i : Instr} : decode w = .ok i ↔ w = encode i := by
  refine ⟨fun h => BitVec.eq_of_toNat_eq ?_, fun h => h ▸ decode_encode i⟩
  obtain ⟨hrsvd, hop⟩ := decode_eq_ok.1 h
  rw [toNat_cmdFields w, hrsvd, toNat_eq_encode_of_opmap hop]
  simp

/-- Settles O3, for each command in turn. -/
theorem wordSelectsCommandExactly : Obligations.WordSelectsCommandExactly := fun _ =>
  ⟨decode_eq_ok_iff_eq_encode, decode_eq_ok_iff_eq_encode, decode_eq_ok_iff_eq_encode, decode_eq_ok_iff_eq_encode,
    decode_eq_ok_iff_eq_encode, decode_eq_ok_iff_eq_encode, decode_eq_ok_iff_eq_encode⟩

/-! ### Illegal words -/

/-- The opcodes the map leaves undefined are 0x0 and 0x8 to 0xF (30_encoding.md R77). -/
theorem opmap_eq_none_iff {op : BitVec 4} : opmap op = none ↔ op = 0#4 ∨ 8 ≤ op.toNat := by
  revert op
  decide

/-- The illegal words by their bits (30_encoding.md R80). -/
theorem exists_decode_eq_error_iff {w : Word} :
    (∃ e, decode w = .error e)
      ↔ w.extractLsb' 4 28 ≠ 0#28 ∨ w.extractLsb' 0 4 = 0#4 ∨ 8 ≤ (w.extractLsb' 0 4).toNat := by
  rw [decode_eq_error, opmap_eq_none_iff, cmdFields_op, cmdFields_rsvd]

/-! ### The table's words as numbers -/

/-- A 32-bit number of the table is read as the word it is. -/
theorem decodeTableWord_toNat (w : Word) : decodeTableWord 32 w.toNat = (decode w).toOption := by
  have hlt := w.isLt
  simp only [decodeTableWord, Nat.mod_eq_of_lt hlt, if_pos hlt, BitVec.ofNat_toNat, BitVec.setWidth_eq]
  cases decode w <;> rfl

theorem decodeTableWord_encode (i : Instr) : decodeTableWord 32 (encode i).toNat = some i := by
  rw [decodeTableWord_toNat, decode_encode]
  rfl

theorem decodeTableWord_of_error {w : Word} {e : DecodeError} (h : decode w = .error e) :
    decodeTableWord 32 w.toNat = none := by
  rw [decodeTableWord_toNat, h]
  rfl

/-- Settles O1: the words of the seven commands, two undefined opcodes and two words with reserved bits set. -/
theorem tableWordsDecode : Obligations.TableWordsDecode :=
  ⟨decodeTableWord_encode .b32dec, decodeTableWord_encode .tstep, decodeTableWord_encode .hmac,
    decodeTableWord_encode .trunc, decodeTableWord_encode .fmt, decodeTableWord_encode .gen,
    decodeTableWord_encode .trem, decodeTableWord_of_error (w := 0x00000000) rfl,
    decodeTableWord_of_error (w := 0x00000008) rfl, decodeTableWord_of_error (w := 0x00000016) rfl,
    decodeTableWord_of_error (w := 0x80000003) rfl⟩

end Sys2Proof

namespace Sys2Proof.Machine

/-! ### An illegal word in flight -/

/-- The engine's turn fails an illegal word with ILLEGAL (60_exceptions.md R179). -/
theorem engineTurn_of_decode_error {s : State} {e : DecodeError} (hb : s.busy = true)
    (he : decode s.pend = .error e) : engineTurn s = .next (raiseErr .illegal s) := by
  simp [engineTurn, completion, hb, he]

/-- Settles O5: acceptance is that of any word, and the completion that of an illegal one. -/
theorem illegalWordAcceptedThenFails : Obligations.IllegalWordAcceptedThenFails := by
  intro s w idle hillegal
  obtain ⟨e, he⟩ := exists_decode_eq_error_iff.2 hillegal
  have haccept : (memWrite s 0x00C 4 w).1 = s.accept w := by
    rw [memWrite_of_registerAt s w (r := .cmd) rfl rfl, writeRegister_cmd_idle w idle]
  rw [haccept]
  refine ⟨rfl, raiseErr .illegal (s.accept w), engineTurn_of_decode_error rfl he, ?_, rfl⟩
  simp only [raiseErr, State.complete, State.accept, idle]

end Sys2Proof.Machine
end

section
/-! SUPPORT. What the expansions of the pseudo-instructions do to the block (30_encoding.md R85, R86). -/

namespace Sys2Proof.Machine

/-! ### One write -/

/-- A write at a register's offset, as a transaction. -/
theorem transact_write_offset9 (s : State) (r : Reg) (v : Word) :
    transact s (.write r.offset9 4 v) = { writeRegister s r v with response := some .writeOk } := by
  rw [transact, memWrite_offset9]

/-- CMD is one CMD write. -/
theorem runPseudo_cmd {s : State} (i : Instr) (hb : s.busy = false) :
    runPseudo (.cmd i) s = { s.accept (encode i) with response := some .writeOk } :=
  calc runPseudo (.cmd i) s
    _ = transact s (.write Reg.cmd.offset9 4 (encode i)) := rfl
    _ = _ := by rw [transact_write_offset9, writeRegister_cmd_idle _ hb]

/-- ACK is the acknowledgement (60_exceptions.md R189). -/
theorem runPseudo_ack (s : State) : runPseudo .ack s = { acknowledge s with response := some .writeOk } :=
  calc runPseudo .ack s
    _ = transact s (.write Reg.status.offset9 4 0x00000006) := rfl
    _ = _ := transact_write_offset9 s .status _

/-- The acknowledgement clears both flags, whatever they are. -/
theorem acknowledge_eq (s : State) : acknowledge s = { s with done := false, ovr := false } := by
  have hmask : (0x00000006 : Word).getLsbD 1 = true ∧ (0x00000006 : Word).getLsbD 2 = true := by decide
  simp only [acknowledge, State.clearStatus, hmask, Bool.not_true, Bool.and_false]

/-! ### SETTIME -/

/-- A register that uses all 32 bits takes the whole word while idle (20_memory.md R53). -/
theorem writeRegister_fullWord_idle {s : State} {r : Reg} (v : Word) (hrw : r.access = .rw)
    (hfull : r.usedBits = 0xFFFFFFFF) (hb : s.busy = false) : writeRegister s r v = setReg s r v := by
  obtain ⟨rfl, -⟩ | ⟨-, h⟩ := writeRegister_rw v hrw (.inl hb)
  · exact absurd hfull (by decide)
  · rw [h, hfull, and_fullMask]

/-- SETTIME writes TIME_LO, then TIME_HI. -/
theorem runPseudo_setTime {s : State} (T : Nat) (hb : s.busy = false) :
    runPseudo (.setTime T) s = { s with
      timeLo := BitVec.ofNat 32 (T % 2 ^ 32), timeHi := BitVec.ofNat 32 (T >>> 32), response := some .writeOk } :=
  calc runPseudo (.setTime T) s
    _ = transact (transact s (.write Reg.timeLo.offset9 4 (BitVec.ofNat 32 (T % 2 ^ 32))))
          (.write Reg.timeHi.offset9 4 (BitVec.ofNat 32 (T >>> 32))) := rfl
    _ = _ := by
      rw [transact_write_offset9, transact_write_offset9, writeRegister_fullWord_idle (r := .timeLo) _ rfl rfl hb,
        setReg, writeRegister_fullWord_idle (r := .timeHi) _ rfl rfl, setReg]
      exact hb

/-- The two halves of a 64-bit time are the time (42_timestep.md R110, R116). -/
theorem timeOf_of_halves {s : State} {T : Nat} (hT : T < 2 ^ 64) (hlo : s.timeLo = BitVec.ofNat 32 (T % 2 ^ 32))
    (hhi : s.timeHi = BitVec.ofNat 32 (T >>> 32)) : timeOf s = T := by
  rw [timeOf, hlo, hhi, BitVec.toNat_ofNat, BitVec.toNat_ofNat, Nat.shiftRight_eq_div_pow]
  omega

/-! ### WAIT -/

/-- Bit 0 of STATUS is BUSY (10_state.md R26). -/
theorem getLsbD_zero_statusWord (s : State) : (statusWord s).getLsbD 0 = s.busy := by
  simp [statusWord]

/-- A poll of WAIT changes the response alone, and WAIT goes on exactly while it finds a command in flight. -/
theorem hostTurn_wait (rest : List HostLine) (s : State) :
    hostTurn (Pseudo.wait.expand ++ rest) s
      = (if s.busy then Pseudo.wait.expand ++ rest else rest, { s with response := some (memRead s 0x008 4) }) := by
  have hread : memRead s 0x008 4 = .readOk (statusWord s) := memRead_offset9 s .status
  have hrepeats : (memRead s 0x008 4).bit0 = s.busy := by
    rw [hread, BusResponse.bit0, getLsbD_zero_statusWord]
  calc hostTurn (Pseudo.wait.expand ++ rest) s
    _ = (if (memRead s 0x008 4).bit0 then Pseudo.wait.expand ++ rest else rest,
          { s with response := some (memRead s 0x008 4) }) := rfl
    _ = _ := by rw [hrepeats]

/-- While a command is in flight WAIT goes on through any number of polls. -/
theorem hostTurns_wait_busy {s : State} (n : Nat) (hb : s.busy = true) :
    hostTurns n Pseudo.wait.expand s
      = (Pseudo.wait.expand, if n = 0 then s else { s with response := some (memRead s 0x008 4) }) := by
  induction n generalizing s with
  | zero => rfl
  | succ n ih =>
    have hpoll := hostTurn_wait [] s
    rw [List.append_nil, if_pos hb] at hpoll
    have hsame := memRead_response_events s (some (memRead s 0x008 4)) s.events 0x008 4
    rw [hostTurns, hpoll]
    exact (ih (s := { s with response := some (memRead s 0x008 4) }) hb).trans <| by
      rw [hsame, ite_self, if_neg n.succ_ne_zero]

/-- The first poll after a completion ends WAIT. -/
theorem hostTurn_wait_idle {s : State} (hb : s.busy = false) :
    hostTurn Pseudo.wait.expand s = ([], { s with response := some (memRead s 0x008 4) }) := by
  have hpoll := hostTurn_wait [] s
  rwa [List.append_nil, if_neg (by simp [hb])] at hpoll

/-- The engine's turn completes the command in flight. -/
theorem exists_engineTurn_completes {s : State} (hb : s.busy = true) :
    ∃ t, engineTurn s = .next t ∧ t.busy = false ∧ t.done = true := by
  obtain ⟨t, ht⟩ := exists_completion_eq_next s
  obtain ⟨-, hidle, hdone⟩ := completion_keeps_hostSide ht
  exact ⟨t, by rw [engineTurn, if_pos hb, ht], hidle, hdone⟩

/-- WAIT started with a command in flight: n polls, the engine's turn, and a last poll. -/
theorem hostRun_wait_busy {s : State} (n : Nat) (hb : s.busy = true) :
    ∃ t, hostRun (List.replicate n .host ++ [.other .engine, .host]) Pseudo.wait.expand s = .next ([], t)
      ∧ t.busy = false ∧ t.done = true
      ∧ hostRun (List.replicate n .host) Pseudo.wait.expand s
        = .next (Pseudo.wait.expand, if n = 0 then s else { s with response := some (memRead s 0x008 4) }) := by
  have hpolls := hostTurns_wait_busy n hb
  generalize hu : (if n = 0 then s else { s with response := some (memRead s 0x008 4) }) = u at hpolls ⊢
  have hub : u.busy = true := by
    subst hu
    split <;> exact hb
  obtain ⟨t, ht, hidle, hdone⟩ := exists_engineTurn_completes hub
  refine ⟨{ t with response := some (memRead t 0x008 4) }, ?_, hidle, hdone, ?_⟩
  · rw [hostRun_host, hpolls]
    simp only [hostRun, occur, ht, hostTurn_wait_idle hidle]
  · have h := hostRun_host n [] Pseudo.wait.expand s
    rw [hpolls] at h
    rwa [List.append_nil] at h

/-! ### Straight-line expansions and buffer words -/

/-- A pseudo-instruction without a loop is its transactions in order. -/
theorem runPseudo_of_once {p : Pseudo} {is : List HostInstr} (h : p.expand = is.map .once) (s : State) :
    runPseudo p s = (is.map HostInstr.transaction).foldl transact s := by
  rw [runPseudo, h, List.length_map, hostTurns_once]

/-- The offset of a word of a buffer, as the bus carries it. -/
theorem Buffer.toNat_wordOffset {b : Buffer} {w : Nat} (h : 4 * w < b.capacity) :
    (b.wordOffset w).toNat = b.base + 4 * w := by
  rw [Buffer.wordOffset, BitVec.toNat_ofNat]
  cases b <;>
    simp only [Buffer.base, Buffer.capacity, Config.digestBase, Config.digestBytes, Config.msgBase, Config.msgMax,
      Config.secretBase, Config.secretMax, Config.keyBase, Config.keyMax] at h ⊢ <;>
    omega

/-- A word of a buffer is a buffer word of the map. -/
theorem Buffer.bufferWordOffset_wordOffset {b : Buffer} {w : Nat} (h : 4 * w < b.capacity) :
    bufferWordOffset (b.wordOffset w).toNat := by
  rw [Buffer.toNat_wordOffset h]
  cases b <;>
    simp only [Buffer.base, Buffer.capacity, Config.digestBase, Config.digestBytes, Config.msgBase, Config.msgMax,
      Config.secretBase, Config.secretMax, Config.keyBase, Config.keyMax, bufferWordOffset] at h ⊢ <;>
    omega

/-- Every buffer is made of whole words (10_state.md R30). -/
theorem Buffer.capacity_aligned (b : Buffer) : b.capacity % 4 = 0 := by
  cases b <;> rfl

/-- The words that hold n bytes are words of the buffer when the bytes fit. -/
theorem Buffer.words_le_capacity {b : Buffer} {n : Nat} (h : n ≤ b.capacity) : 4 * ((n + 3) / 4) ≤ b.capacity := by
  have := b.capacity_aligned
  omega

/-! ### READB -/

/-- Reads change the response alone. -/
theorem foldl_transact_reads (offs : List Offset) (s : State) :
    ∃ p, ((offs.map HostInstr.rd).map HostInstr.transaction).foldl transact s = { s with response := p } := by
  induction offs generalizing s with
  | nil => exact ⟨s.response, rfl⟩
  | cons off offs ih => exact ih { s with response := some (memRead s off 4) }

/-- The expansion of READB, as a list of reads. -/
theorem expand_readB (b : Buffer) (n : Nat) :
    (Pseudo.readB b n).expand = (((List.range ((n + 3) / 4)).map b.wordOffset).map HostInstr.rd).map .once := by
  simp only [Pseudo.expand, List.map_map, Function.comp_def]

/-- READB changes the response alone. -/
theorem runPseudo_readB (b : Buffer) (n : Nat) (s : State) :
    runPseudo (.readB b n) s = { s with response := (runPseudo (.readB b n) s).response } := by
  obtain ⟨p, h⟩ := foldl_transact_reads ((List.range ((n + 3) / 4)).map b.wordOffset) s
  rw [runPseudo_of_once (expand_readB b n) s, h]

/-- Line w of READB reads word w of the buffer. -/
theorem getElem?_expand_readB {b : Buffer} {n w : Nat} (hn : n ≤ b.capacity) (hw : w < (n + 3) / 4) :
    ∃ off, (Pseudo.readB b n).expand[w]? = some (.once (.rd off)) ∧ off.toNat = b.base + 4 * w := by
  have := Buffer.words_le_capacity hn
  exact ⟨b.wordOffset w, by simp [Pseudo.expand, hw], Buffer.toNat_wordOffset (by omega)⟩

/-- Settles O56, by what each expansion does. -/
theorem pseudoInstructionEffects : Obligations.PseudoInstructionEffects := by
  intro s i T
  refine ⟨runPseudo_cmd i, ?ack, fun hb hT => ⟨?time, ?frame⟩, fun rest => hostTurn_wait rest s,
    fun hb n => hostRun_wait_busy n hb, fun b n hn => ⟨fun w => getElem?_expand_readB hn, ?length,
    runPseudo_readB b n s⟩⟩
  case ack => rw [runPseudo_ack, acknowledge_eq]
  case time => exact timeOf_of_halves hT (by rw [runPseudo_setTime T hb]) (by rw [runPseudo_setTime T hb])
  case frame => rw [runPseudo_setTime T hb]
  case length => simp [Pseudo.expand]

/-! ### LOADB -/

/-- A byte string is written in two parts, one after the other. -/
theorem Memory.writeBytes_append (m : Memory) (a : Nat) (x y : Bytes) :
    Memory.writeBytes m a (x ++ y) = Memory.writeBytes (Memory.writeBytes m a x) (a + x.length) y := by
  induction x generalizing m a with
  | nil => rfl
  | cons c x ih =>
    rw [List.cons_append, Memory.writeBytes_cons, ih, Memory.writeBytes_cons, List.length_cons, Nat.add_right_comm,
      Nat.add_assoc]

/-- A byte string padded to one word more has that word's bytes at its end (10_state.md R30). -/
theorem padTo_succ_word (bs : Bytes) (k : Nat) :
    padTo (4 * (k + 1)) bs = padTo (4 * k) bs ++ be32bytes (wordAt bs k) := by
  rw [wordAt, be32bytes_be32]
  simp [padTo, Nat.mul_add, List.range_succ]

/-- The first k words of LOADB, one transaction each. -/
def loadTransactions (b : Buffer) (bs : Bytes) (k : Nat) : List Transaction :=
  (List.range k).map fun w => .write (b.wordOffset w) 4 (wordAt bs w)

/-- LOADB is the transactions of its words. -/
theorem runPseudo_loadB (b : Buffer) (bs : Bytes) (s : State) :
    runPseudo (.loadB b bs) s = (loadTransactions b bs ((bs.length + 3) / 4)).foldl transact s := by
  have h : (Pseudo.loadB b bs).expand
      = ((List.range ((bs.length + 3) / 4)).map fun w => HostInstr.wr (b.wordOffset w) (wordAt bs w)).map .once := by
    simp only [Pseudo.expand, List.map_map, Function.comp_def]
  rw [runPseudo_of_once h, loadTransactions, List.map_map]
  rfl

/-- A word of a buffer written while idle. -/
theorem transact_write_wordOffset {s : State} {b : Buffer} {w : Nat} (v : Word) (hb : s.busy = false)
    (hw : 4 * w < b.capacity) :
    transact s (.write (b.wordOffset w) 4 v)
      = { s with mem := Memory.writeWord s.mem (b.base + 4 * w) v, response := some .writeOk } := by
  rw [transact, memWrite_bufferWord v hb (Buffer.bufferWordOffset_wordOffset hw), Buffer.toNat_wordOffset hw]

/-- From an idle state the first k words leave the byte string in the buffer, cut or zero-filled to k words. -/
theorem foldl_loadTransactions {s : State} {b : Buffer} (bs : Bytes) {k : Nat} (hb : s.busy = false)
    (hk : 4 * k ≤ b.capacity) :
    ∃ p, (loadTransactions b bs k).foldl transact s
      = { s with mem := Memory.writeBytes s.mem b.base (padTo (4 * k) bs), response := p } := by
  induction k with
  | zero => exact ⟨s.response, rfl⟩
  | succ k ih =>
    obtain ⟨p, h⟩ := ih (by omega)
    refine ⟨some .writeOk, ?_⟩
    rw [loadTransactions, List.range_succ, List.map_append, List.foldl_append, ← loadTransactions, h,
      padTo_succ_word, Memory.writeBytes_append, length_padTo]
    exact transact_write_wordOffset _ hb (by omega)

/-- Settles O57: LOADB writes the zero-filled string to memory at the buffer's base. -/
theorem loadbLoadsTheBytes : Obligations.LoadbLoadsTheBytes := by
  intro s b bs hwf hb hfits
  obtain ⟨p, h⟩ := foldl_loadTransactions bs hb (Buffer.words_le_capacity hfits)
  rw [runPseudo_loadB, h]
  refine ⟨fun i hi => ?inside, fun a ha => ?outside⟩
  case inside => rw [Memory.read_writeBytes_inside hwf (by rwa [length_padTo]), getD_padTo bs hi]
  case outside => exact Memory.read_writeBytes_outside (by rwa [length_padTo])

end Sys2Proof.Machine
end

section
/-! SUPPORT. The values of the Base32 symbols, the bits and groups of a decoded string, and what B32DEC writes
(41_base32.md R95 to R102). -/

namespace Sys2Proof.Machine

/-! ### Symbol values -/

/-- The 58 byte values that have a symbol value: the digits 2 to 7, the upper-case and the lower-case letters. -/
theorem filter_sym_range : (List.range 256).filter (fun n => (sym (BitVec.ofNat 8 n)).isSome)
    = List.range' 0x32 6 ++ List.range' 0x41 26 ++ List.range' 0x61 26 := by
  decide

/-- Settles O12: the alphabet by its 32 characters, the count by the list of the 58 bytes. -/
theorem symbolValues : Obligations.SymbolValues :=
  ⟨rfl, by decide, by decide, by rw [filter_sym_range]; rfl⟩

/-- A byte is a symbol when it has a value. -/
theorem length_symbols (s : Bytes) : (symbols s).length = (s.filter fun c => (sym c).isSome).length := by
  rw [symbols, List.length_filterMap_eq_countP, List.countP_eq_length_filter]

/-! ### The bits of the decoded string -/

/-- The output has the whole bytes of the bit sequence. -/
theorem length_b32decode (s : Bytes) : (b32decode s).length = 5 * (symbols s).length / 8 := by
  rw [b32decode, length_packBits, length_secretBits]

/-- Output bit j is bit j of the packed sequence. -/
theorem getLsbD_getD_packBits {bits : List Bool} {j : Nat} (h : j < 8 * (packBits bits).length) :
    ((packBits bits).getD (j / 8) 0).getLsbD (7 - j % 8) = bits.getD j false := by
  rw [length_packBits] at h
  rw [getD_packBits (by omega), getLsbD_byteFromBits bits _ (by omega), Nat.div_add_mod]

/-- Settles O13: output bit j and bit j of the symbols are both bit j of the secret's bit sequence. -/
theorem base32BitByBit : Obligations.Base32BitByBit := by
  intro s
  refine ⟨?length, length_b32decode_le, fun j hj => ?bit⟩
  case length => rw [length_b32decode, length_symbols]
  case bit =>
    calc ((b32decode s).getD (j / 8) 0).getLsbD (7 - j % 8)
      _ = (secretBits s).getD j false := getLsbD_getD_packBits hj
      _ = ((s.filterMap sym).getD (j / 5) 0).getLsbD (4 - j % 5) := getD_flatMap_symbolBits _ j

/-! ### Case and bytes without a value -/

/-- A lower-case letter has the value of its upper-case letter (41_base32.md R96). -/
theorem sym_foldCase (c : Byte) : sym (foldCase c) = sym c := by
  unfold foldCase
  split
  case isFalse => rfl
  case isTrue hlower =>
    have hupper : 0x41#8 ≤ c - 0x20#8 ∧ c - 0x20#8 ≤ 0x5A#8 := by bv_omega
    have hnot : ¬(0x41#8 ≤ c ∧ c ≤ 0x5A#8) := by bv_omega
    have hvalue : (c - 0x20#8).toNat - 0x41 = c.toNat - 0x61 := by bv_omega
    rw [sym, if_pos hupper, sym, if_neg hnot, if_pos hlower, hvalue]

/-- Folding the case of a secret leaves its symbol values alone. -/
theorem symbols_map_foldCase (s : Bytes) : symbols (s.map foldCase) = symbols s := by
  rw [symbols, List.filterMap_map, symbols]
  exact List.filterMap_congr fun c _ => sym_foldCase c

/-- Bytes without a value add no symbol. -/
theorem symbols_of_no_value {junk : Bytes} (h : ∀ c ∈ junk, sym c = none) : symbols junk = [] :=
  List.filterMap_eq_nil_iff.2 h

/-- Settles O14: the symbol values are the same, and the decoded bytes depend on them alone. -/
theorem base32IgnoresCaseAndInvalid : Obligations.Base32IgnoresCaseAndInvalid := by
  intro a junk b hjunk
  refine b32decode_congr ?_
  calc symbols ((a ++ junk ++ b).map foldCase)
    _ = symbols a ++ symbols junk ++ symbols b := by rw [symbols_map_foldCase, symbols_append, symbols_append]
    _ = symbols (a ++ b) := by rw [symbols_of_no_value hjunk, List.append_nil, symbols_append]

/-! ### Groups of eight symbols -/

/-- An output byte depends on its eight bits alone. -/
theorem byteFromBits_congr {bits bits' : List Bool} {m m' : Nat}
    (h : ∀ k, k < 8 → bits.getD (8 * m + k) false = bits'.getD (8 * m' + k) false) :
    byteFromBits bits m = byteFromBits bits' m' := by
  rw [byteFromBits, byteFromBits]
  congr 2
  refine List.map_congr_left fun k hk => ?_
  rw [h k (List.mem_range.1 hk)]

/-- The bytes of a sequence that follows g whole bytes and is followed by other bits. -/
theorem byteFromBits_append_mid {before bits after : List Bool} {g m : Nat} (hg : before.length = 8 * g)
    (hm : 8 * m + 8 ≤ bits.length) : byteFromBits (before ++ bits ++ after) (g + m) = byteFromBits bits m := by
  refine byteFromBits_congr fun k hk => ?_
  rw [List.append_assoc, List.getD_append_right _ _ _ _ (by omega),
    show 8 * (g + m) + k - before.length = 8 * m + k by omega, List.getD_append _ _ _ _ (by omega)]

/-- A symbol value as the sum of its bits. -/
theorem toNat_eq_sum_of_bits : ∀ v : BitVec 5, v.toNat = (v.getLsbD 4).toNat * 16 + (v.getLsbD 3).toNat * 8
    + (v.getLsbD 2).toNat * 4 + (v.getLsbD 1).toNat * 2 + (v.getLsbD 0).toNat := by
  decide

/-- A symbol value cut in two between any two of its bits. -/
theorem toNat_div_mod_of_bits : ∀ v : BitVec 5,
    (v.toNat / 2 = (v.getLsbD 4).toNat * 8 + (v.getLsbD 3).toNat * 4 + (v.getLsbD 2).toNat * 2 + (v.getLsbD 1).toNat
        ∧ v.toNat % 2 = (v.getLsbD 0).toNat)
      ∧ (v.toNat / 4 = (v.getLsbD 4).toNat * 4 + (v.getLsbD 3).toNat * 2 + (v.getLsbD 2).toNat
        ∧ v.toNat % 4 = (v.getLsbD 1).toNat * 2 + (v.getLsbD 0).toNat)
      ∧ (v.toNat / 8 = (v.getLsbD 4).toNat * 2 + (v.getLsbD 3).toNat
        ∧ v.toNat % 8 = (v.getLsbD 2).toNat * 4 + (v.getLsbD 1).toNat * 2 + (v.getLsbD 0).toNat)
      ∧ v.toNat / 16 = (v.getLsbD 4).toNat
        ∧ v.toNat % 16 = (v.getLsbD 3).toNat * 8 + (v.getLsbD 2).toNat * 4 + (v.getLsbD 1).toNat * 2
          + (v.getLsbD 0).toNat := by
  decide

/-- The sum of eight bits at their places fits in a byte. -/
theorem toNat_sum_of_bits : ∀ b0 b1 b2 b3 b4 b5 b6 b7 : Bool,
    (BitVec.ofNat 8 ([b0.toNat <<< 7, b1.toNat <<< 6, b2.toNat <<< 5, b3.toNat <<< 4, b4.toNat <<< 3, b5.toNat <<< 2,
      b6.toNat <<< 1, b7.toNat <<< 0].sum)).toNat = b0.toNat * 128 + b1.toNat * 64 + b2.toNat * 32 + b3.toNat * 16
        + b4.toNat * 8 + b5.toNat * 4 + b6.toNat * 2 + b7.toNat := by
  decide

/-- An output byte as the sum of its bits (41_base32.md R98). -/
theorem toNat_byteFromBits (bits : List Bool) (m : Nat) :
    (byteFromBits bits m).toNat = (bits.getD (8 * m) false).toNat * 128 + (bits.getD (8 * m + 1) false).toNat * 64
      + (bits.getD (8 * m + 2) false).toNat * 32 + (bits.getD (8 * m + 3) false).toNat * 16
      + (bits.getD (8 * m + 4) false).toNat * 8 + (bits.getD (8 * m + 5) false).toNat * 4
      + (bits.getD (8 * m + 6) false).toNat * 2 + (bits.getD (8 * m + 7) false).toNat :=
  toNat_sum_of_bits _ _ _ _ _ _ _ _

/-- The group formulas (41_base32.md R100): the five bytes of the bits of eight symbols. -/
theorem toNat_byteFromBits_group (v0 v1 v2 v3 v4 v5 v6 v7 : BitVec 5) :
    let byte := fun k => (byteFromBits ([v0, v1, v2, v3, v4, v5, v6, v7].flatMap symbolBits) k).toNat
    byte 0 = v0.toNat * 8 + v1.toNat / 4
      ∧ byte 1 = v1.toNat % 4 * 64 + v2.toNat * 2 + v3.toNat / 16
      ∧ byte 2 = v3.toNat % 16 * 16 + v4.toNat / 2
      ∧ byte 3 = v4.toNat % 2 * 128 + v5.toNat * 4 + v6.toNat / 8
      ∧ byte 4 = v6.toNat % 8 * 32 + v7.toNat := by
  obtain ⟨-, ⟨hv1high, hv1low⟩, -, -⟩ := toNat_div_mod_of_bits v1
  obtain ⟨-, -, -, hv3high, hv3low⟩ := toNat_div_mod_of_bits v3
  obtain ⟨⟨hv4high, hv4low⟩, -, -, -⟩ := toNat_div_mod_of_bits v4
  obtain ⟨-, -, ⟨hv6high, hv6low⟩, -⟩ := toNat_div_mod_of_bits v6
  rw [hv1high, hv1low, hv3high, hv3low, hv4high, hv4low, hv6high, hv6low, toNat_eq_sum_of_bits v0,
    toNat_eq_sum_of_bits v2, toNat_eq_sum_of_bits v5, toNat_eq_sum_of_bits v7]
  simp only [toNat_byteFromBits, getD_flatMap_symbolBits, Nat.reduceMul, Nat.reduceAdd, Nat.reduceDiv, Nat.reduceMod,
    Nat.reduceSub, List.getD_cons_succ, List.getD_cons_zero]
  refine ⟨?_, ?_, ?_, ?_, ?_⟩ <;> omega

section
variable {s : Bytes} {before group after : List (BitVec 5)} (hbefore : before.length % 8 = 0)
  (hgroup : group.length = 8) (hs : symbols s = before ++ group ++ after)
include hbefore hgroup hs

/-- The five bytes of a group of eight symbols that starts at a multiple of 8 are whole bytes of the output. -/
theorem group_le_length_b32decode : 5 * (before.length / 8) + 5 ≤ (b32decode s).length := by
  rw [length_b32decode, hs, List.length_append, List.length_append, hgroup]
  omega

/-- Byte m of such a group is byte m of the group's own bits. -/
theorem getD_b32decode_group {m : Nat} (hm : m < 5) :
    (b32decode s).getD (5 * (before.length / 8) + m) 0 = byteFromBits (group.flatMap symbolBits) m := by
  have hinside := group_le_length_b32decode hbefore hgroup hs
  rw [b32decode, length_packBits] at hinside
  rw [b32decode, getD_packBits (by omega), secretBits, hs, List.flatMap_append, List.flatMap_append]
  refine byteFromBits_append_mid ?before ?group <;> rw [length_flatMap_symbolBits] <;> omega

end

/-- Settles O15: the group's bytes are those of its own bits, which the group formulas give. -/
theorem base32GroupOfEight : Obligations.Base32GroupOfEight := by
  intro s before after v0 v1 v2 v3 v4 v5 v6 v7 hbefore hs out
  have hout {m : Nat} (hm : m < 5) : out m
      = (byteFromBits ([v0, v1, v2, v3, v4, v5, v6, v7].flatMap symbolBits) m).toNat :=
    congrArg BitVec.toNat (getD_b32decode_group hbefore rfl hs hm)
  refine ⟨group_le_length_b32decode hbefore rfl hs, ?_⟩
  rw [hout (m := 0) (by decide), hout (m := 1) (by decide), hout (m := 2) (by decide), hout (m := 3) (by decide),
    hout (m := 4) (by decide)]
  exact toNat_byteFromBits_group v0 v1 v2 v3 v4 v5 v6 v7

/-! ### B32DEC -/

/-- The bytes of KEY after a decoded key is written: the key, then zeros (41_base32.md R95, R102). -/
theorem State.read_putKey_inside {s : State} (hwf : Memory.wf s.mem) (k : Bytes) {i : Nat} (h : i < 80) :
    Memory.read (s.putKey k).mem (0x180 + i) = if i < k.length then k.getD i 0 else 0x00 := by
  have hbyte : Memory.read (s.putKey k).mem (0x180 + i) = k.getD i 0 := by
    rw [State.putKey_mem]
    exact (Memory.read_writeBytes_inside hwf (by simpa using h)).trans (getD_padTo k h)
  rw [hbyte]
  split
  case isTrue => rfl
  case isFalse hend => exact List.getD_eq_default _ _ (Nat.not_lt.1 hend)

/-- KEY_LEN holds the length of any key that fits in KEY. -/
theorem State.toNat_putKey_keyLen (s : State) {k : Bytes} (h : k.length ≤ 80) :
    (s.putKey k).keyLen.toNat = k.length := by
  rw [State.putKey_keyLen, BitVec.toNat_ofNat, Nat.mod_eq_of_lt (by omega)]

/-- Settles O16: the success commits the decoded key, the failure raises LEN. -/
theorem b32decResult : Obligations.B32decResult := by
  intro s hwf k
  refine ⟨fun hfits => ?success, fun hlong => ?failure⟩
  case success =>
    have hk : k.length ≤ 80 := length_b32decode_le (by simpa [bytesAt] using hfits)
    exact ⟨commit (s.putKey k), exec_of_ok (failsLen_b32dec.2 hfits),
      fun i hi => by rw [commit_mem, State.read_putKey_inside hwf k hi], s.toNat_putKey_keyLen hk, hk, rfl, rfl, rfl⟩
  case failure => exact exec_of_failsLen ((secretTooLong_iff s).2 hlong)

end Sys2Proof.Machine
end

section
/-! SUPPORT. The time step, the eight bytes of its counter, and what TSTEP writes (42_timestep.md R111 to R115). -/

namespace Sys2Proof.Machine

/-! ### The time step -/

/-- The time step of every 64-bit TIME fits in 60 bits (42_timestep.md R112). -/
theorem timeStep_lt {T : Nat} (hT : T < 2 ^ 64) : timeStep T < 2 ^ 60 := by
  simp only [timeStep, Config.period]
  omega

/-- The time step of a state's TIME (42_timestep.md R110, R112). -/
theorem timeStep_timeOperand (s : State) : timeStep (timeOperand s) = timeOf s / 30 := by
  rw [timeStep, timeOperand_eq, timeOf]

/-- The time step fits in 32 bits until the year 6053 (42_timestep.md R114). -/
theorem timeStep_lt_two_pow_32_iff (T : Nat) : timeStep T < 2 ^ 32 ↔ T < 128849018880 :=
  Nat.div_lt_iff_lt_mul (by decide)

/-! ### The counter -/

/-- Byte i of the counter as a number (00_scope.md R10). -/
theorem toNat_getD_be64bytes (v : Nat) {i : Nat} (h : i < 8) :
    ((be64bytes v).getD i 0).toNat = v / 2 ^ (8 * (7 - i)) % 256 := by
  rw [getD_be64bytes v h, BitVec.toNat_ofNat, Nat.shiftRight_eq_div_pow]

/-- A counter byte is 0 when those eight bits of the value are. -/
theorem getD_be64bytes_eq_zero_iff (v : Nat) {i : Nat} (h : i < 8) :
    (be64bytes v).getD i 0 = 0x00 ↔ v / 2 ^ (8 * (7 - i)) % 256 = 0 := by
  rw [← BitVec.toNat_inj, toNat_getD_be64bytes v h]
  exact Iff.rfl

/-- The high four bytes of a 64-bit value are 0 exactly while it fits in the low four. -/
theorem be64bytes_high_eq_zero_iff {v : Nat} (hv : v < 2 ^ 64) :
    (∀ i, i < 4 → (be64bytes v).getD i 0 = 0x00) ↔ v < 2 ^ 32 := by
  constructor
  case mp =>
    intro hzero
    have hbyte {i : Nat} (hi : i < 4) := (getD_be64bytes_eq_zero_iff v (by omega)).1 (hzero i hi)
    have h0 := hbyte (i := 0) (by decide)
    have h1 := hbyte (i := 1) (by decide)
    have h2 := hbyte (i := 2) (by decide)
    have h3 := hbyte (i := 3) (by decide)
    omega
  case mpr =>
    intro hlow i hi
    have hplace : 2 ^ 32 ≤ 2 ^ (8 * (7 - i)) := Nat.pow_le_pow_right (by decide) (by omega)
    rw [getD_be64bytes_eq_zero_iff v (by omega), Nat.div_eq_of_lt (hlow.trans_le hplace), Nat.zero_mod]

/-- The eight bytes read as a big-endian number are the whole 64-bit value (00_scope.md R10). -/
theorem foldl_be64bytes {v : Nat} (hv : v < 2 ^ 64) :
    (be64bytes v).foldl (fun n b => n * 256 + b.toNat) 0 = v := by
  rw [be64bytes_eq]
  simp only [List.foldl_cons, List.foldl_nil, BitVec.toNat_ofNat, Nat.shiftRight_eq_div_pow]
  omega

/-- Settles O18: the time step is a 64-bit value, whose eight bytes hold all of it. -/
theorem counterNeverTruncated : Obligations.CounterNeverTruncated := by
  intro T hT
  have hstep : timeStep T < 2 ^ 60 := timeStep_lt hT
  have hfits : timeStep T < 2 ^ 64 := hstep.trans (by decide)
  exact ⟨(be64bytes_high_eq_zero_iff hfits).trans (timeStep_lt_two_pow_32_iff T), foldl_be64bytes hfits, hstep⟩

/-! ### TSTEP -/

/-- The two halves of TSTEP hold the whole of any 64-bit time step (10_state.md R32). -/
theorem State.toNat_putCounter_tstep (s : State) {ts : Nat} (h : ts < 2 ^ 64) :
    (s.putCounter ts).tstepHi.toNat * 2 ^ 32 + (s.putCounter ts).tstepLo.toNat = ts := by
  rw [State.putCounter_tstepHi, State.putCounter_tstepLo, BitVec.toNat_ofNat, BitVec.toNat_ofNat,
    Nat.shiftRight_eq_div_pow]
  omega

/-- The bytes of MSG after a counter is written: the counter, then zeros (42_timestep.md R111, R115). -/
theorem State.read_putCounter_inside {s : State} (hwf : Memory.wf s.mem) (ts : Nat) {i : Nat} (h : i < 64) :
    Memory.read (s.putCounter ts).mem (0x080 + i) = if i < 8 then (be64bytes ts).getD i 0 else 0x00 := by
  have hbyte : Memory.read (s.putCounter ts).mem (0x080 + i) = (be64bytes ts).getD i 0 := by
    rw [State.putCounter_mem]
    exact (Memory.read_writeBytes_inside hwf (by simpa using h)).trans (getD_padTo _ h)
  rw [hbyte]
  split
  case isTrue => rfl
  case isFalse hend => exact List.getD_eq_default _ _ (by simpa using hend)

/-- Settles O17: TSTEP never fails, and what it commits is the counter of the time step. -/
theorem tstepResult : Obligations.TstepResult := by
  intro s hwf
  rw [← timeStep_timeOperand s]
  have hfits : timeStep (timeOperand s) < 2 ^ 64 := (timeStep_timeOperand_lt s).trans (by decide)
  refine ⟨commit (s.putCounter (timeStep (timeOperand s))), exec_of_ok rfl, s.toNat_putCounter_tstep hfits,
    fun i hi => ?counter, fun i hi hend => ?zeros, s.putCounter_msgLen (timeStep (timeOperand s)), rfl, rfl, rfl⟩
  case counter =>
    rw [commit_mem, State.read_putCounter_inside hwf _ (by omega), if_pos hi, toNat_getD_be64bytes _ hi]
  case zeros => rw [commit_mem, State.read_putCounter_inside hwf _ hend, if_neg (Nat.not_lt.2 hi)]

end Sys2Proof.Machine
end

section
/-! SUPPORT. SHA-1: the padding, the compression of one block and the chain over the blocks
(43_hmac_sha1.md R121 to R127). -/

namespace Sys2Proof.Machine

/-! ### Padding -/

/-- No smaller number of zeros meets the congruence of 43_hmac_sha1.md R121. -/
theorem sha1PadZeros_le {l k : Nat} (h : (l + 1 + k) % 64 = 56) : sha1PadZeros l ≤ k := by
  rw [sha1PadZeros]
  omega

/-- The padded message fills whole blocks, the least number that holds the message, 0x80 and the length. -/
theorem sha1Pad_length_eq_blocks (m : Bytes) : (sha1Pad m).length = 64 * ((m.length + 8) / 64 + 1) := by
  have hmod := sha1PadZeros_mod m.length
  have hlt := sha1PadZeros_lt m.length
  rw [sha1Pad_length]
  omega

/-- Settles O21: the model's closed form of k is the least one. -/
theorem sha1Padding : Obligations.Sha1Padding := by
  intro m
  refine ⟨sha1PadZeros m.length, rfl, sha1PadZeros_mod m.length,
    fun k' hlt h => Nat.not_le.2 hlt (sha1PadZeros_le h), ?_, ?_⟩
  · rw [sha1Pad_length_eq_blocks, Nat.mul_mod_right]
  · rw [sha1Pad_length_eq_blocks, Nat.mul_div_cancel_left _ (by decide)]

/-! ### The message schedule -/

/-- The schedule of a block when n words have been appended to it; all of it at n = 64 (43_hmac_sha1.md R125). -/
def sha1ScheduleUpTo (block : List Word) (n : Nat) : List Word :=
  (List.range' 16 n).foldl (fun w t => w ++ [sha1Expand w t]) block

theorem sha1Schedule_eq_upTo (block : List Word) : sha1Schedule block = sha1ScheduleUpTo block 64 := rfl

theorem sha1ScheduleUpTo_zero (block : List Word) : sha1ScheduleUpTo block 0 = block := rfl

theorem sha1ScheduleUpTo_succ (block : List Word) (n : Nat) :
    sha1ScheduleUpTo block (n + 1)
      = sha1ScheduleUpTo block n ++ [sha1Expand (sha1ScheduleUpTo block n) (16 + n)] := by
  rw [sha1ScheduleUpTo, List.range'_1_concat, List.foldl_concat, ← sha1ScheduleUpTo]

@[simp] theorem length_sha1ScheduleUpTo (block : List Word) (n : Nat) :
    (sha1ScheduleUpTo block n).length = block.length + n := by
  induction n with
  | zero => rfl
  | succ n ih => rw [sha1ScheduleUpTo_succ, List.length_append, ih, List.length_singleton, Nat.add_assoc]

/-- A word of the schedule stays as it is while later words are appended. -/
theorem getD_sha1ScheduleUpTo_of_le {block : List Word} {t n n' : Nat} (hn : n ≤ n') (ht : t < block.length + n) :
    (sha1ScheduleUpTo block n').getD t 0 = (sha1ScheduleUpTo block n).getD t 0 := by
  induction n', hn using Nat.le_induction with
  | base => rfl
  | succ n' hn ih => rw [sha1ScheduleUpTo_succ, List.getD_append _ _ _ _ (by simp; omega), ih]

/-- A word of the schedule is the word it had when n words had been appended. -/
theorem getD_sha1Schedule {block : List Word} {t n : Nat} (hn : n ≤ 64) (ht : t < block.length + n) :
    (sha1Schedule block).getD t 0 = (sha1ScheduleUpTo block n).getD t 0 := by
  rw [sha1Schedule_eq_upTo, getD_sha1ScheduleUpTo_of_le hn ht]

/-- The first sixteen words of the schedule are the block (43_hmac_sha1.md R125). -/
theorem getD_sha1Schedule_block {block : List Word} {t : Nat} (ht : t < block.length) :
    (sha1Schedule block).getD t 0 = block.getD t 0 := by
  rw [getD_sha1Schedule (Nat.zero_le 64) ht, sha1ScheduleUpTo_zero]

/-- The expansion reads the words 3, 8, 14 and 16 places before t alone. -/
theorem sha1Expand_congr {w w' : List Word} {t : Nat} (h16 : 16 ≤ t) (h : ∀ i, i < t → w.getD i 0 = w'.getD i 0) :
    sha1Expand w t = sha1Expand w' t := by
  rw [sha1Expand, sha1Expand, h (t - 3) (by omega), h (t - 8) (by omega), h (t - 14) (by omega), h (t - 16) (by omega)]

/-- Every later word of the schedule is expanded from the schedule itself (43_hmac_sha1.md R125). -/
theorem getD_sha1Schedule_expand {block : List Word} (hb : block.length = 16) {t : Nat} (h16 : 16 ≤ t)
    (h80 : t < 80) :
    (sha1Schedule block).getD t 0 = sha1Expand (sha1Schedule block) t := by
  obtain ⟨n, rfl⟩ := Nat.exists_eq_add_of_le h16
  have hlast : (sha1ScheduleUpTo block n).length = 16 + n := by simp [hb]
  calc (sha1Schedule block).getD (16 + n) 0
      = (sha1ScheduleUpTo block (n + 1)).getD (16 + n) 0 := getD_sha1Schedule (by omega) (by omega)
    _ = sha1Expand (sha1ScheduleUpTo block n) (16 + n) := by
      rw [sha1ScheduleUpTo_succ, List.getD_append_right _ _ _ _ hlast.le, hlast, Nat.sub_self, List.getD_cons_zero]
    _ = sha1Expand (sha1Schedule block) (16 + n) :=
      sha1Expand_congr h16 fun i hi => (getD_sha1Schedule (by omega) (by omega)).symm

/-! ### The 80 rounds -/

/-- The round functions, by the last round of each (43_hmac_sha1.md R124). -/
theorem sha1F_eq (t : Nat) (b c d : Word) :
    sha1F t b c d = if t ≤ 19 then (b &&& c) ^^^ (~~~b &&& d) else if t ≤ 39 then b ^^^ c ^^^ d
      else if t ≤ 59 then (b &&& c) ^^^ (b &&& d) ^^^ (c &&& d) else b ^^^ c ^^^ d := by
  simp only [sha1F, Nat.lt_succ_iff]

/-- The round constants, by the last round of each (43_hmac_sha1.md R124). -/
theorem sha1K_eq (t : Nat) :
    sha1K t = if t ≤ 19 then 0x5A827999 else if t ≤ 39 then 0x6ED9EBA1 else if t ≤ 59 then 0x8F1BBCDC
      else 0xCA62C1D6 := by
  simp only [sha1K, Nat.lt_succ_iff]

/-- The working variables before round t (43_hmac_sha1.md R126). -/
def sha1Rounds (w : List Word) (h : HashWords) (t : Nat) : HashWords := (List.range t).foldl (sha1Round w) h

theorem sha1Rounds_zero (w : List Word) (h : HashWords) : sha1Rounds w h 0 = h := rfl

theorem sha1Rounds_succ (w : List Word) (h : HashWords) (t : Nat) :
    sha1Rounds w h (t + 1) = sha1Round w (sha1Rounds w h t) t := by
  rw [sha1Rounds, List.range_succ, List.foldl_concat, ← sha1Rounds]

theorem sha1Compress_eq (h : HashWords) (block : List Word) {r : HashWords}
    (hr : r = sha1Rounds (sha1Schedule block) h 80) :
    sha1Compress h block = { a := h.a + r.a, b := h.b + r.b, c := h.c + r.c, d := h.d + r.d, e := h.e + r.e } := by
  rw [sha1Compress, ← sha1Rounds, hr]

/-- Settles O22: W is the model's schedule, v its working variables round by round. -/
theorem sha1CompressesBlock : Obligations.Sha1CompressesBlock := by
  intro h block hb
  refine ⟨fun t => (sha1Schedule block).getD t 0, sha1Rounds (sha1Schedule block) h,
    fun t ht => getD_sha1Schedule_block (by omega),
    fun t h16 h80 => (getD_sha1Schedule_expand hb h16 h80).trans (rotl_eq (by decide) _), sha1Rounds_zero _ h,
    fun t _ => ?round, sha1Compress_eq h block rfl⟩
  simp only [sha1Rounds_succ, sha1Round, sha1F_eq, sha1K_eq, rotl_eq (show 5 < 32 by decide),
    rotl_eq (show 30 < 32 by decide)]

/-! ### The chain over the blocks -/

/-- The hash value after the first j blocks of a padded message (43_hmac_sha1.md R126). -/
def sha1Chain (p : Bytes) (j : Nat) : HashWords :=
  (List.range j).foldl (fun h i => sha1Compress h (sha1Block p i)) sha1Init

theorem sha1Chain_zero (p : Bytes) : sha1Chain p 0 = sha1Init := rfl

theorem sha1Chain_succ (p : Bytes) (j : Nat) :
    sha1Chain p (j + 1) = sha1Compress (sha1Chain p j) (sha1Block p j) := by
  rw [sha1Chain, List.range_succ, List.foldl_concat, ← sha1Chain]

theorem sha1Words_eq_sha1Chain (m : Bytes) : sha1Words m = sha1Chain (sha1Pad m) ((sha1Pad m).length / 64) := by
  rw [sha1Words, sha1Chain]

@[simp] theorem length_sha1Block (p : Bytes) (j : Nat) : (sha1Block p j).length = 16 := by simp [sha1Block]

/-- Word t of block j is big-endian in the bytes from 64j + 4t on (43_hmac_sha1.md R122). -/
theorem toNat_getD_sha1Block (p : Bytes) (j : Nat) {t : Nat} (ht : t < 16) :
    ((sha1Block p j).getD t 0).toNat
      = (p.getD (64 * j + 4 * t) 0).toNat * 2 ^ 24 + (p.getD (64 * j + 4 * t + 1) 0).toNat * 2 ^ 16
        + (p.getD (64 * j + 4 * t + 2) 0).toNat * 2 ^ 8 + (p.getD (64 * j + 4 * t + 3) 0).toNat := by
  have hword : (sha1Block p j).getD t 0 = wordAt p (16 * j + t) := by simp [sha1Block, List.getD, ht]
  have hbyte : 4 * (16 * j + t) = 64 * j + 4 * t := by omega
  rw [hword, wordAt, toNat_be32, hbyte]

/-- Settles O23: the chain of hash values is the model's fold, block by block. -/
theorem sha1ChainsBlocks : Obligations.Sha1ChainsBlocks := by
  intro m
  refine ⟨sha1Chain (sha1Pad m), sha1Chain_zero _, fun j _ => ?block, ?digest, length_sha1 m⟩
  case block =>
    exact ⟨sha1Block (sha1Pad m) j, length_sha1Block _ j, fun t => toNat_getD_sha1Block _ j, sha1Chain_succ _ j⟩
  case digest => rw [sha1, sha1Words_eq_sha1Chain, HashWords.bytes]

end Sys2Proof.Machine
end

section
/-! SUPPORT. HMAC-SHA1: the key block and the nested formula, and what the command HMAC reads and writes
(43_hmac_sha1.md R128 to R132). -/

namespace Sys2Proof.Machine

/-! ### The key block -/

/-- A key that fits in the block is padded as it is (43_hmac_sha1.md R128). -/
theorem hmacKeyBlock_of_le {k : Bytes} (h : k.length ≤ 64) : hmacKeyBlock k = k ++ zeros (64 - k.length) := by
  rw [hmacKeyBlock, hmacShortKey, if_neg (Nat.not_lt.2 h)]

/-- A longer key is hashed first (43_hmac_sha1.md R128). -/
theorem hmacKeyBlock_of_lt {k : Bytes} (h : 64 < k.length) : hmacKeyBlock k = sha1 k ++ zeros 44 := by
  rw [hmacKeyBlock, hmacShortKey, if_pos h, length_sha1]

/-- Settles O24: the key block is K0 in both of its cases. -/
theorem hmacConstruction : Obligations.HmacConstruction := by
  intro k m K0
  have hK0 : K0 = hmacKeyBlock k := by
    by_cases h : 64 < k.length
    · exact (if_pos h).trans (hmacKeyBlock_of_lt h).symm
    · exact (if_neg h).trans (hmacKeyBlock_of_le (Nat.not_lt.1 h)).symm
  rw [hK0]
  exact ⟨length_hmacKeyBlock k, length_hmacSha1 k m, by simp only [hmacSha1, xorPad, BitVec.ofNat_eq_ofNat]⟩

/-- The key counts through its block alone (43_hmac_sha1.md R129). -/
theorem hmacSha1_congr_keyBlock {k k' : Bytes} (h : hmacKeyBlock k = hmacKeyBlock k') (m : Bytes) :
    hmacSha1 k m = hmacSha1 k' m := by
  rw [hmacSha1, hmacSha1, h]

/-- The block of a zero key of any length that fits is 64 zeros. -/
theorem hmacKeyBlock_zeros {n : Nat} (h : n ≤ 64) : hmacKeyBlock (zeros n) = zeros 64 := by
  rw [hmacKeyBlock_of_le (by simpa using h), length_zeros, zeros, zeros, List.replicate_append_replicate,
    Nat.add_sub_cancel' h, zeros]

/-- Settles O25: both keys have the same block, 64 zeros. -/
theorem zeroKeyIsEmptyKey : Obligations.ZeroKeyIsEmptyKey := fun n m h =>
  hmacSha1_congr_keyBlock (k := zeros n) (k' := zeros 0)
    ((hmacKeyBlock_zeros h).trans (hmacKeyBlock_zeros (Nat.zero_le 64)).symm) m

/-! ### The command HMAC -/

/-- A word read out of a byte string written is that word of the string (10_state.md R30). -/
theorem Memory.readWord_writeBytes {m : Memory} (hm : Memory.wf m) (a : Nat) {bs : Bytes} {w : Nat}
    (h : 4 * w + 3 < bs.length) : Memory.readWord (Memory.writeBytes m a bs) (a + 4 * w) = wordAt bs w := by
  simp only [Memory.readWord, wordAt, Nat.add_assoc]
  rw [Memory.read_writeBytes_inside hm (by omega), Memory.read_writeBytes_inside hm (by omega),
    Memory.read_writeBytes_inside hm (by omega), Memory.read_writeBytes_inside hm h]

/-- DIGESTk of a digest written is word k of the digest (43_hmac_sha1.md R131). -/
theorem regValue_commit_putDigest {s : State} (hwf : Memory.wf s.mem) {d : Bytes} (hd : d.length = 20) (k : Fin 5) :
    regValue (commit (s.putDigest d)) (.digest k) = wordAt d k.val := by
  rw [regValue, Reg.addr, commit_mem, State.putDigest_mem, padTo_of_length hd,
    Memory.readWord_writeBytes hwf _ (by omega)]

/-- The key of HMAC is the bytes of KEY below KEY_LEN (30_encoding.md R79). -/
theorem keyOperand_eq_bytesAt (s : State) : keyOperand s = bytesAt s 0x180 s.keyLen.toNat := rfl

/-- The message of HMAC is the bytes of MSG below MSG_LEN (30_encoding.md R79). -/
theorem msgOperand_eq_bytesAt (s : State) : msgOperand s = bytesAt s 0x080 s.msgLen.toNat := rfl

/-- Settles O26: the success commits the digest of the operands, the failure raises LEN. -/
theorem hmacResult : Obligations.HmacResult := by
  intro s hwf d
  refine ⟨fun hfits => ?success, fun hlong => ?failure⟩
  case success =>
    have hd : d.length = 20 := length_hmacSha1 _ _
    have hexec : exec .hmac s = .next (commit (s.putDigest d)) := by
      rw [exec_of_ok (failsLen_hmac.2 hfits), results, keyOperand_eq_bytesAt, msgOperand_eq_bytesAt]
    exact ⟨_, hexec, regValue_commit_putDigest hwf hd, hd, rfl, rfl, rfl⟩
  case failure => exact exec_of_failsLen ((hmacTooLong_iff s).2 hlong)

/-- The operand KEY depends on KEY_LEN and the bytes below it alone (43_hmac_sha1.md R132). -/
theorem keyOperand_congr {s t : State} (hlen : s.keyLen = t.keyLen)
    (h : ∀ i, i < s.keyLen.toNat → Memory.read s.mem (0x180 + i) = Memory.read t.mem (0x180 + i)) :
    keyOperand s = keyOperand t := by
  rw [keyOperand, keyOperand, ← hlen]
  exact Memory.readBytes_congr h

/-- The operand MSG depends on MSG_LEN and the bytes below it alone (43_hmac_sha1.md R132). -/
theorem msgOperand_congr {s t : State} (hlen : s.msgLen = t.msgLen)
    (h : ∀ i, i < s.msgLen.toNat → Memory.read s.mem (0x080 + i) = Memory.read t.mem (0x080 + i)) :
    msgOperand s = msgOperand t := by
  rw [msgOperand, msgOperand, ← hlen]
  exact Memory.readBytes_congr h

/-- The bytes of DIGEST after a digest is written (43_hmac_sha1.md R131). -/
theorem State.read_putDigest_inside {s : State} (hwf : Memory.wf s.mem) (d : Bytes) {i : Nat} (h : i < 20) :
    Memory.read (s.putDigest d).mem (0x048 + i) = d.getD i 0 := by
  rw [State.putDigest_mem]
  exact (Memory.read_writeBytes_inside hwf (by simpa using h)).trans (getD_padTo d h)

/-- A byte of DIGEST after an HMAC that succeeds is the digest's. -/
theorem read_digest_of_exec_hmac {s s' : State} (hwf : Memory.wf s.mem)
    (hfits : s.keyLen.toNat ≤ 80 ∧ s.msgLen.toNat ≤ 64) (h : exec .hmac s = .next s') {i : Nat} (hi : i < 20) :
    Memory.read s'.mem (0x048 + i) = (hmacSha1 (keyOperand s) (msgOperand s)).getD i 0 := by
  obtain rfl := eq_commit_of_exec (failsLen_hmac.2 hfits) h
  rw [commit_mem, results, State.read_putDigest_inside hwf _ hi]

/-- Settles O27: the two states have the same operands, and DIGEST is their digest. -/
theorem hmacReadsOnlyWithinLengths : Obligations.HmacReadsOnlyWithinLengths := by
  intro s t s' t' hs ht hkeyLen hmsgLen hkey hmsg keyBytes msgBytes hs' ht' i hi
  rw [read_digest_of_exec_hmac hs ⟨hkey, hmsg⟩ hs' hi,
    read_digest_of_exec_hmac ht ⟨hkeyLen ▸ hkey, hmsgLen ▸ hmsg⟩ ht' hi,
    keyOperand_congr hkeyLen keyBytes, msgOperand_congr hmsgLen msgBytes]

end Sys2Proof.Machine
end

section
/-! SUPPORT. The truncated value, the digits of a code, and what TRUNC and FMT write
(44_truncate_format.md R145 to R151). -/

namespace Sys2Proof.Machine

/-! ### TRUNC -/

/-- The masked top bit leaves a 31-bit value (44_truncate_format.md R147). -/
theorem toNat_truncated_lt (d : Bytes) : (truncated d).toNat < 2 ^ 31 := by
  have h0 := Nat.mod_lt (d.getD (truncOffset d).toNat 0).toNat (show 0 < 128 by decide)
  have h1 := (d.getD ((truncOffset d).toNat + 1) 0).isLt
  have h2 := (d.getD ((truncOffset d).toNat + 2) 0).isLt
  have h3 := (d.getD ((truncOffset d).toNat + 3) 0).isLt
  rw [truncated, toNat_truncWindow]
  omega

/-- A window from any offset TRUNC can take ends before byte 19 (44_truncate_format.md R148). -/
theorem truncOffset_window_le (d : Bytes) : (truncOffset d).toNat + 3 ≤ 18 := by
  have := (truncOffset d).isLt
  omega

/-- OFFSET of a state's digest is the low nibble of its byte 19 (44_truncate_format.md R146). -/
theorem toNat_truncOffset_digestOperand (s : State) :
    (truncOffset (digestOperand s)).toNat = (Memory.read s.mem (0x048 + 19)).toNat % 16 := by
  rw [toNat_truncOffset, getD_digestOperand s (by decide)]

/-- Settles O28: TRUNC never fails, and the window it reads lies inside the digest. -/
theorem truncResult : Obligations.TruncResult := by
  intro s
  have hoff := toNat_truncOffset_digestOperand s
  have hend := truncOffset_window_le (digestOperand s)
  refine ⟨commit (s.putTruncated (truncOffset (digestOperand s)) (truncated (digestOperand s))), exec_of_ok rfl, hoff,
    hoff ▸ hend, ?window, toNat_truncated_lt (digestOperand s), rfl, rfl, rfl⟩
  case window =>
    dsimp only
    rw [← hoff, ← getD_digestOperand s (by omega), ← getD_digestOperand s (by omega),
      ← getD_digestOperand s (by omega), ← getD_digestOperand s (by omega)]
    exact toNat_truncWindow (digestOperand s) _

/-! ### The digits of a code -/

/-- A digit character is one of the characters 0 to 9 (44_truncate_format.md R151). -/
theorem toNat_codeChar_mem_digits (c j : Nat) : 0x30 ≤ (codeChar c j).toNat ∧ (codeChar c j).toNat ≤ 0x39 := by
  rw [toNat_codeChar]
  omega

/-- The first n characters, read as a decimal number, are the code without its last 6 - n digits. -/
theorem foldl_codeChar {c : Nat} (hc : c < 10 ^ 6) {n : Nat} (hn : n ≤ 6) :
    (List.range n).foldl (fun m j => m * 10 + ((codeChar c j).toNat - 0x30)) 0 = c / 10 ^ (6 - n) := by
  induction n with
  | zero => exact (Nat.div_eq_of_lt hc).symm
  | succ n ih =>
    have hplaces : 6 - n = 5 - n + 1 := by omega
    have hdrop : c / 10 ^ (6 - n) = c / 10 ^ (5 - n) / 10 := by rw [hplaces, Nat.pow_succ, Nat.div_div_eq_div_mul]
    rw [List.range_succ, List.foldl_concat, ih (by omega), hdrop, toNat_codeChar, Nat.add_sub_cancel_left,
      Nat.div_add_mod', Nat.succ_sub_succ]

/-- Settles O30: all six characters spell the code with no digit dropped. -/
theorem digitsSpellTheCode : Obligations.DigitsSpellTheCode := fun c hc =>
  ⟨fun j _ => toNat_codeChar_mem_digits c j, (foldl_codeChar hc le_rfl).trans (Nat.div_one c)⟩

/-! ### FMT -/

/-- CODE1 reads as its two characters in the high half (10_state.md R35). -/
theorem toNat_regValue_code1 (s : State) : (regValue s .code1).toNat = s.code1.toNat * 2 ^ 16 := by
  rw [regValue_code1, BitVec.toNat_append, BitVec.toNat_ofNat, Nat.or_zero, Nat.shiftLeft_eq]

/-- CODE1 of a formatted code as a number (44_truncate_format.md R151). -/
theorem toNat_regValue_code1_of_packCode1 {s : State} {c : Nat} (h : s.code1 = packCode1 c) :
    (regValue s .code1).toNat = (codeChar c 4).toNat * 2 ^ 24 + (codeChar c 5).toNat * 2 ^ 16 := by
  rw [toNat_regValue_code1, h, toNat_packCode1]
  omega

/-- Settles O29: FMT never fails, and what it commits is the reduced code and its characters. -/
theorem fmtResult : Obligations.FmtResult := by
  intro s
  let c := reduceCode (binOperand s)
  refine ⟨commit (s.putFormatted c), exec_of_ok rfl, toNat_codeNum s.bin.toNat, ?code0, ?code1, rfl, rfl, rfl⟩
  case code0 =>
    simp only [← toNat_codeChar]
    exact toNat_packCode0 c
  case code1 =>
    simp only [← toNat_codeChar]
    exact toNat_regValue_code1_of_packCode1 rfl

end Sys2Proof.Machine
end

section
/-! SUPPORT. What GEN writes, that it is the six commands in turn, what its results depend on, and the seconds
remaining (45_generate.md R160 to R170). -/

namespace Sys2Proof.Machine

/-- The flags after a commit (10_state.md R36). -/
theorem completedWith_commit (s : State) : completedWith (commit s) .ok := ⟨rfl, rfl, rfl⟩

/-! ### The seconds remaining -/

/-- TREM's five bits hold the whole of the value (45_generate.md R166). -/
theorem toNat_secondsRemaining (T : Nat) : (secondsRemaining T).toNat = 30 - T % 30 := by
  rw [secondsRemaining, BitVec.toNat_ofNat, Config.period]
  omega

/-- The seconds remaining of a state's TIME (42_timestep.md R110, 45_generate.md R166). -/
theorem toNat_secondsRemaining_timeOperand (s : State) :
    (secondsRemaining (timeOperand s)).toNat = 30 - timeOf s % 30 := by
  rw [toNat_secondsRemaining, timeOperand_eq, timeOf]

/-- Settles O19: TREM never fails, and what it commits is the seconds remaining of TIME. -/
theorem tremResult : Obligations.TremResult := fun s =>
  ⟨_, exec_of_ok rfl, toNat_secondsRemaining_timeOperand s, completedWith_commit _⟩

/-- Settles O20: every clause is one of the remainder of the time by 30. -/
theorem tremSequence : Obligations.TremSequence := by
  intro T
  rw [toNat_secondsRemaining, toNat_secondsRemaining]
  refine ⟨by omega, by omega, by omega, ?next⟩
  case next =>
    split
    case isTrue hlast => omega
    case isFalse hmid => omega

/-! ### What GEN writes -/

/-- KEY written keeps the canonical form of memory. -/
theorem State.wf_putKey {s : State} (hwf : Memory.wf s.mem) (k : Bytes) : Memory.wf (s.putKey k).mem := by
  rw [State.putKey_mem]
  exact Memory.wf_writeBytes hwf _ _

/-- MSG written keeps the canonical form of memory. -/
theorem State.wf_putCounter {s : State} (hwf : Memory.wf s.mem) (ts : Nat) : Memory.wf (s.putCounter ts).mem := by
  rw [State.putCounter_mem]
  exact Memory.wf_writeBytes hwf _ _

section
variable {s : State} (secret : Bytes) (T : Nat)

/-- GEN's bytes are those of B32DEC, TSTEP and HMAC in turn; its later steps write no byte (45_generate.md R160). -/
theorem State.putGenerated_mem_eq_put :
    (s.putGenerated secret T).mem = (((s.putKey (b32decode secret)).putCounter (timeStep T)).putDigest
      (hmacSha1 (b32decode secret) (be64bytes (timeStep T)))).mem := by
  rw [State.putGenerated_eq s secret T rfl rfl rfl, State.putRemaining_mem, State.putFormatted_mem,
    State.putTruncated_mem]

variable (hwf : Memory.wf s.mem) {i : Nat}
include hwf

/-- The bytes of KEY after GEN's results are written (45_generate.md R160). -/
theorem State.read_putGenerated_key (h : i < 80) :
    Memory.read (s.putGenerated secret T).mem (0x180 + i)
      = if i < (b32decode secret).length then (b32decode secret).getD i 0 else 0x00 := by
  rw [State.putGenerated_mem_eq_put, State.read_putDigest_outside _ _ (by omega),
    State.read_putCounter_outside _ _ (by omega), State.read_putKey_inside hwf _ h]

/-- The bytes of MSG after GEN's results are written (45_generate.md R160). -/
theorem State.read_putGenerated_msg (h : i < 64) :
    Memory.read (s.putGenerated secret T).mem (0x080 + i)
      = if i < 8 then (be64bytes (timeStep T)).getD i 0 else 0x00 := by
  rw [State.putGenerated_mem_eq_put, State.read_putDigest_outside _ _ (by omega),
    State.read_putCounter_inside (State.wf_putKey hwf _) _ h]

/-- The bytes of DIGEST after GEN's results are written (45_generate.md R160). -/
theorem State.read_putGenerated_digest (h : i < 20) :
    Memory.read (s.putGenerated secret T).mem (0x048 + i)
      = (hmacSha1 (b32decode secret) (be64bytes (timeStep T))).getD i 0 := by
  rw [State.putGenerated_mem_eq_put,
    State.read_putDigest_inside (State.wf_putCounter (State.wf_putKey hwf _) _) _ h]

end

/-- The truncated value as a number, by the bytes of the digest alone (44_truncate_format.md R146, R147). -/
theorem toNat_truncated (d : Bytes) :
    (truncated d).toNat = (d.getD ((d.getD 19 0).toNat % 16) 0).toNat % 128 * 2 ^ 24
      + (d.getD ((d.getD 19 0).toNat % 16 + 1) 0).toNat * 2 ^ 16
      + (d.getD ((d.getD 19 0).toNat % 16 + 2) 0).toNat * 2 ^ 8 + (d.getD ((d.getD 19 0).toNat % 16 + 3) 0).toNat := by
  rw [truncated, toNat_truncWindow, toNat_truncOffset]

/-- KEY_LEN of any decoded secret that fits is the key's length. -/
theorem State.toNat_putGenerated_keyLen (s : State) {secret : Bytes} (h : secret.length ≤ 128) (T : Nat) :
    (s.putGenerated secret T).keyLen.toNat = (b32decode secret).length := by
  rw [State.putGenerated_keyLen, ← State.putKey_keyLen s, s.toNat_putKey_keyLen (length_b32decode_le h)]

/-- TSTEP of a 64-bit time is its whole time step. -/
theorem State.toNat_putGenerated_tstep (s : State) (secret : Bytes) {T : Nat} (h : T < 2 ^ 64) :
    (s.putGenerated secret T).tstepHi.toNat * 2 ^ 32 + (s.putGenerated secret T).tstepLo.toNat = timeStep T := by
  rw [State.putGenerated_tstepHi, State.putGenerated_tstepLo, ← State.putCounter_tstepHi s,
    ← State.putCounter_tstepLo s]
  exact s.toNat_putCounter_tstep ((timeStep_lt h).trans (by decide))

/-- The secret of B32DEC and GEN is the bytes of SECRET below SECRET_LEN (30_encoding.md R79). -/
theorem secretOperand_eq_bytesAt (s : State) : secretOperand s = bytesAt s 0x100 s.secretLen.toNat := rfl

/-- Settles O31: the success commits GEN's registers, read one by one, the failure raises LEN. -/
theorem genResult : Obligations.GenResult := by
  intro s hwf
  rw [← secretOperand_eq_bytesAt s, ← timeStep_timeOperand s, ← toNat_secondsRemaining_timeOperand s]
  intro k ts d off b c g
  refine ⟨fun hfits => ?success, fun hlong => ?failure⟩
  case success =>
    have hk : (secretOperand s).length ≤ 128 := (length_secretOperand s).trans_le hfits
    have hc : reduceCode (truncated d).toNat = c := congrArg reduceCode (toNat_truncated d)
    refine ⟨commit (s.putGenerated (secretOperand s) (timeOperand s)), exec_of_ok (failsLen_gen.2 hfits),
      fun i hi => ?key, ?keyLen, ?tstep, fun i hi => ?msg, ?msgLen, fun i hi => ?digest, ?offset, ?bin, ?codeNum, ?code0,
      ?code1, ?trem, completedWith_commit _⟩
    case key => rw [commit_mem, State.read_putGenerated_key _ _ hwf hi]
    case keyLen => rw [commit, State.complete_keyLen, s.toNat_putGenerated_keyLen hk _]
    case tstep =>
      rw [commit, State.complete_tstepHi, State.complete_tstepLo, s.toNat_putGenerated_tstep _ (timeOperand_lt s)]
    case msg => rw [commit_mem, State.read_putGenerated_msg _ _ hwf hi]
    case msgLen => rw [commit, State.complete_msgLen, State.putGenerated_msgLen]
    case digest => rw [commit_mem, State.read_putGenerated_digest _ _ hwf hi]
    case offset => rw [commit, State.complete_offset, State.putGenerated_offset, toNat_truncOffset]
    case bin => rw [commit, State.complete_bin, State.putGenerated_bin, toNat_truncated]
    case codeNum => rw [commit, State.complete_codeNum, State.putGenerated_codeNum, toNat_codeNum, hc]
    case code0 =>
      rw [regValue, commit, State.complete_code0, State.putGenerated_code0, hc, toNat_packCode0]
      simp only [toNat_codeChar, g]
    case code1 =>
      have hcode1 : (commit (s.putGenerated (secretOperand s) (timeOperand s))).code1 = packCode1 c := by
        rw [commit, State.complete_code1, State.putGenerated_code1, hc]
      rw [toNat_regValue_code1_of_packCode1 hcode1]
      simp only [toNat_codeChar, g]
    case trem => rw [commit, State.complete_trem, State.putGenerated_trem]
  case failure => exact exec_of_failsLen ((secretTooLong_iff s).2 hlong)

/-! ### GEN is the six commands in turn -/

/-- GEN's update leaves the flags of an earlier completion, as its six parts do. -/
theorem State.complete_putGenerated (s : State) (e : ErrCode) (secret : Bytes) (T : Nat) :
    (s.complete e).putGenerated secret T = (s.putGenerated secret T).complete e := by
  rw [State.putGenerated_eq _ secret T rfl rfl rfl, State.putGenerated_eq _ secret T rfl rfl rfl,
    State.complete_putKey, State.complete_putCounter, State.complete_putDigest, State.complete_putTruncated,
    State.complete_putFormatted, State.complete_putRemaining]

/-- A command writes its results whatever flags an earlier completion left: no result reads STATUS. -/
theorem results_commit (i : Instr) (s : State) : results i (commit s) = commit (results i s) := by
  cases i with
  | b32dec => exact s.complete_putKey .ok _
  | tstep => exact s.complete_putCounter .ok _
  | hmac => exact s.complete_putDigest .ok _
  | trunc => exact s.complete_putTruncated .ok _ _
  | fmt => exact s.complete_putFormatted .ok _
  | gen => exact s.complete_putGenerated .ok _ _
  | trem => exact s.complete_putRemaining .ok _

/-- No command's failure reads STATUS. -/
theorem failsLen_commit (i : Instr) (s : State) : failsLen i (commit s) = failsLen i s := by
  cases i <;> rfl

/-- A command after another's completion, when it does not fail. -/
theorem exec_commit_of_ok {i : Instr} {s : State} (h : failsLen i s = false) :
    exec i (commit s) = .next (commit (results i s)) := by
  rw [exec_of_ok ((failsLen_commit i s).trans h), results_commit]
  rfl

/-- The first bytes read are the bytes read first. -/
theorem Memory.take_readBytes (m : Memory) (a : Nat) {n k : Nat} (h : k ≤ n) :
    (Memory.readBytes m a n).take k = Memory.readBytes m a k := by
  rw [Memory.readBytes, Memory.readBytes, ← List.map_take, List.take_range, Nat.min_eq_left h]

/-- A byte string written with its padding is read back at its own length. -/
theorem Memory.readBytes_writeBytes_padTo {m : Memory} (hm : Memory.wf m) (a : Nat) {n : Nat} {bs : Bytes}
    (h : bs.length ≤ n) : Memory.readBytes (Memory.writeBytes m a (padTo n bs)) a bs.length = bs := by
  have hwhole : Memory.readBytes (Memory.writeBytes m a (padTo n bs)) a n = padTo n bs := by
    simpa using Memory.readBytes_writeBytes hm a (padTo n bs)
  rw [← Memory.take_readBytes _ _ h, hwhole, padTo_take h rfl]

/-- The key that B32DEC leaves is the key that HMAC reads (45_generate.md R161). -/
theorem keyOperand_putKey {s : State} (hwf : Memory.wf s.mem) {k : Bytes} (hk : k.length ≤ 80) :
    keyOperand (s.putKey k) = k := by
  rw [keyOperand, s.toNat_putKey_keyLen hk, State.putKey_mem, Memory.readBytes_writeBytes_padTo hwf _ hk]

/-- TSTEP leaves the key of HMAC alone: KEY stands above MSG. -/
theorem keyOperand_putCounter (s : State) (ts : Nat) : keyOperand (s.putCounter ts) = keyOperand s :=
  keyOperand_congr (s.putCounter_keyLen ts) fun _ _ => s.read_putCounter_outside ts (by omega)

/-- The message that TSTEP leaves is the message that HMAC reads (45_generate.md R161). -/
theorem msgOperand_putCounter {s : State} (hwf : Memory.wf s.mem) (ts : Nat) :
    msgOperand (s.putCounter ts) = be64bytes ts := by
  have hlen : (s.putCounter ts).msgLen.toNat = (be64bytes ts).length := by
    rw [State.putCounter_msgLen, length_be64bytes]
    rfl
  rw [msgOperand, hlen, State.putCounter_mem, Memory.readBytes_writeBytes_padTo hwf _ (by simp)]

/-- The digest that HMAC leaves is the digest that TRUNC reads (45_generate.md R161). -/
theorem digestOperand_putDigest {s : State} (hwf : Memory.wf s.mem) {d : Bytes} (hd : d.length = 20) :
    digestOperand (s.putDigest d) = d := by
  rw [digestOperand, State.putDigest_mem, Config.digestBytes, ← hd, Memory.readBytes_writeBytes_padTo hwf _ le_rfl]

/-! The results of the commands, an equation per case. -/

theorem results_b32dec (s : State) : results .b32dec s = s.putKey (b32decode (secretOperand s)) := rfl

theorem results_tstep (s : State) : results .tstep s = s.putCounter (timeStep (timeOperand s)) := rfl

theorem results_hmac (s : State) : results .hmac s = s.putDigest (hmacSha1 (keyOperand s) (msgOperand s)) := rfl

theorem results_trunc (s : State) :
    results .trunc s = s.putTruncated (truncOffset (digestOperand s)) (truncated (digestOperand s)) := rfl

theorem results_fmt (s : State) : results .fmt s = s.putFormatted (reduceCode (binOperand s)) := rfl

theorem results_gen (s : State) : results .gen s = s.putGenerated (secretOperand s) (timeOperand s) := rfl

theorem results_trem (s : State) : results .trem s = s.putRemaining (secondsRemaining (timeOperand s)) := rfl

/-- TIME is the host's: no command's results change it (10_state.md R37). -/
theorem timeOperand_results (i : Instr) (s : State) : timeOperand (results i s) = timeOperand s := by
  obtain ⟨-, -, -, -, hlo, hhi, -, -⟩ := results_hostSide i s
  exact timeOperand_congr hlo hhi

section
variable {s : State} (hwf : Memory.wf s.mem) (hfits : s.secretLen.toNat ≤ 128)
include hfits

/-- B32DEC leaves a key that fits in KEY (41_base32.md R102). -/
theorem length_b32decode_secretOperand_le : (b32decode (secretOperand s)).length ≤ 80 :=
  length_b32decode_le ((length_secretOperand s).trans_le hfits)

/-- HMAC succeeds after B32DEC and TSTEP: the key and the counter fit (45_generate.md R161). -/
theorem failsLen_hmac_tstep_b32dec : failsLen .hmac (results .tstep (results .b32dec s)) = false := by
  have hk := length_b32decode_secretOperand_le hfits
  rw [failsLen_hmac, results_tstep, results_b32dec, State.putCounter_keyLen, State.putCounter_msgLen,
    s.toNat_putKey_keyLen hk]
  exact ⟨hk, by decide⟩

include hwf

/-- Each command reads what the one before it left, so the six results in turn are GEN's (45_generate.md R161). -/
theorem results_gen_eq_sequence :
    results .gen s
      = results .trem (results .fmt (results .trunc (results .hmac (results .tstep (results .b32dec s))))) := by
  let k := b32decode (secretOperand s)
  let ts := timeStep (timeOperand s)
  let d := hmacSha1 k (be64bytes ts)
  have hk : k.length ≤ 80 := length_b32decode_secretOperand_le hfits
  have htstep : results .tstep (results .b32dec s) = (s.putKey k).putCounter ts := by
    rw [results_tstep, timeOperand_results, results_b32dec]
  have hkey : keyOperand ((s.putKey k).putCounter ts) = k := by
    rw [keyOperand_putCounter, keyOperand_putKey hwf hk]
  have hmsg : msgOperand ((s.putKey k).putCounter ts) = be64bytes ts := msgOperand_putCounter (State.wf_putKey hwf k) ts
  have hhmac : results .hmac ((s.putKey k).putCounter ts) = ((s.putKey k).putCounter ts).putDigest d := by
    rw [results_hmac, hkey, hmsg]
  have hdigest : digestOperand (((s.putKey k).putCounter ts).putDigest d) = d :=
    digestOperand_putDigest (State.wf_putCounter (State.wf_putKey hwf k) ts) (length_hmacSha1 k _)
  rw [results_trem, timeOperand_results, timeOperand_results, timeOperand_results, timeOperand_results,
    timeOperand_results, htstep, hhmac, results_trunc, hdigest, results_fmt, binOperand, State.putTruncated_bin]
  exact s.putGenerated_eq (secretOperand s) (timeOperand s) rfl rfl rfl

end

/-- Settles O32: the flags of each completion count for no later command, and the six results in turn are GEN's. -/
theorem genEqualsSequence : Obligations.GenEqualsSequence := by
  intro s hwf
  refine ⟨fun hfits => ?success, fun hlong => ?failure⟩
  case success =>
    refine ⟨_, _, _, _, _, _, exec_of_ok (failsLen_b32dec.2 hfits), exec_commit_of_ok rfl,
      exec_commit_of_ok (failsLen_hmac_tstep_b32dec hfits), exec_commit_of_ok rfl, exec_commit_of_ok rfl,
      exec_commit_of_ok rfl, ?gen, completedWith_commit _, completedWith_commit _, completedWith_commit _,
      completedWith_commit _, completedWith_commit _, completedWith_commit _⟩
    rw [exec_of_ok (failsLen_gen.2 hfits), results_gen_eq_sequence hwf hfits]
  case failure =>
    have htooLong := (secretTooLong_iff s).2 hlong
    exact ⟨raiseErr .len s, exec_of_failsLen htooLong, exec_of_failsLen htooLong, rfl, rfl, rfl⟩

/-! ### What GEN's results depend on -/

/-- GEN's results but TREM depend on the secret and the time step alone (45_generate.md R164, R170). -/
theorem sameCodeResults_putGenerated {s t : State} (hs : Memory.wf s.mem) (ht : Memory.wf t.mem) (secret : Bytes)
    {T T' : Nat} (hstep : timeStep T = timeStep T') :
    sameCodeResults (s.putGenerated secret T) (t.putGenerated secret T') := by
  refine ⟨fun i hi => ?key, ?keyLen, ?tstepLo, ?tstepHi, fun i hi => ?msg, ?msgLen, fun i hi => ?digest, ?offset, ?bin,
    ?codeNum, ?code0, ?code1⟩
  case key => rw [State.read_putGenerated_key _ _ hs hi, State.read_putGenerated_key _ _ ht hi]
  case msg => rw [State.read_putGenerated_msg _ _ hs hi, State.read_putGenerated_msg _ _ ht hi, hstep]
  case digest => rw [State.read_putGenerated_digest _ _ hs hi, State.read_putGenerated_digest _ _ ht hi, hstep]
  all_goals simp only [State.putGenerated_keyLen, State.putGenerated_tstepLo, State.putGenerated_tstepHi,
    State.putGenerated_msgLen, State.putGenerated_offset, State.putGenerated_bin, State.putGenerated_codeNum,
    State.putGenerated_code0, State.putGenerated_code1, hstep]

/-- The flags of a commit are no result of GEN. -/
theorem sameCodeResults_commit {s t : State} (h : sameCodeResults s t) : sameCodeResults (commit s) (commit t) := h

/-- Settles O34: within one time step the two GENs have the same secret and the same counter. -/
theorem genStableWithinTimeStep : Obligations.GenStableWithinTimeStep := by
  intro s t s' t' hs ht hfits hlen hsecret hstep hs' ht'
  rw [← secretOperand_eq_bytesAt, ← secretOperand_eq_bytesAt] at hsecret
  rw [← timeStep_timeOperand, ← timeStep_timeOperand] at hstep
  obtain rfl := eq_commit_of_exec (failsLen_gen.2 hfits) hs'
  obtain rfl := eq_commit_of_exec (failsLen_gen.2 (hlen ▸ hfits)) ht'
  rw [results_gen, results_gen, hsecret]
  exact sameCodeResults_commit (sameCodeResults_putGenerated hs ht _ hstep)

/-- Settles O33: equal inputs lie in one time step and have the same seconds remaining. -/
theorem genDeterministic : Obligations.GenDeterministic := by
  intro s t s' t' hs ht hfits ⟨hlen, hsecret, hlo, hhi⟩ hs' ht'
  have htime : timeOperand s = timeOperand t := timeOperand_congr hlo hhi
  obtain rfl := eq_commit_of_exec (failsLen_gen.2 hfits) hs'
  obtain rfl := eq_commit_of_exec (failsLen_gen.2 (hlen ▸ hfits)) ht'
  rw [results_gen, results_gen, hsecret, htime]
  refine ⟨sameCodeResults_commit (sameCodeResults_putGenerated hs ht _ rfl), ?trem, rfl, rfl, rfl⟩
  case trem =>
    rw [commit, commit, State.complete_trem, State.complete_trem, State.putGenerated_trem, State.putGenerated_trem]

end Sys2Proof.Machine
end

section
/-! SUPPORT. The outcome code of a completion, what a transaction that is not admitted does, and the interrupt output
(60_exceptions.md R175, R176, R179 to R181, R183, R184). -/

namespace Sys2Proof.Machine

/-! ### The outcome code -/

/-- While a command is in flight the engine's turn is its completion (10_state.md R36). -/
theorem completion_of_engineTurn {s t : State} (hb : s.busy = true) (h : engineTurn s = .next t) :
    completion s = .next t := by
  rwa [engineTurn, if_pos hb] at h

@[simp] theorem raiseErr_err (code : ErrCode) (s : State) : (raiseErr code s).err = code := rfl

@[simp] theorem commit_err (s : State) : (commit s).err = .ok := rfl

/-- A completion gives ILLEGAL when the decoder rejects the word in flight (60_exceptions.md R179). -/
theorem completion_err_eq_illegal_iff {s t : State} (h : completion s = .next t) :
    t.err = .illegal ↔ ∃ e, decode s.pend = .error e := by
  obtain ⟨e, he, rfl⟩ | ⟨i, hi, -, rfl⟩ | ⟨i, hi, -, rfl⟩ := completion_cases h
  · simp [he]
  · simp [hi]
  · simp [hi]

/-- Settles O4: the words that the decoder rejects are the illegal ones. -/
theorem illegalRaisedExactly : Obligations.IllegalRaisedExactly := fun _ _ hb h =>
  (completion_err_eq_illegal_iff (completion_of_engineTurn hb h)).trans exists_decode_eq_error_iff

/-- Settles O39: of the three ways a completion can end, two raise an error and write STATUS alone, and the commit
gives OK. -/
theorem failedCommandWritesOnlyStatus : Obligations.FailedCommandWritesOnlyStatus := by
  intro s t hb h herr
  obtain ⟨-, -, rfl⟩ | ⟨-, -, -, rfl⟩ | ⟨i, -, -, rfl⟩ := completion_cases (completion_of_engineTurn hb h)
  · rfl
  · rfl
  · exact absurd (commit_err (results i s)) herr

/-- A command gives LEN when it fails so. -/
theorem exec_err_eq_len_iff {i : Instr} {s t : State} (h : exec i s = .next t) :
    t.err = .len ↔ failsLen i s = true := by
  obtain ⟨hf, rfl⟩ | ⟨hf, rfl⟩ := exec_next h
  · simp [hf]
  · simp [hf]

/-- The commands that fail with LEN, and on which operands (60_exceptions.md R180). -/
theorem failsLen_iff (i : Instr) (s : State) :
    failsLen i s = true ↔
      ((i = .b32dec ∨ i = .gen) ∧ 128 < s.secretLen.toNat)
        ∨ (i = .hmac ∧ (80 < s.keyLen.toNat ∨ 64 < s.msgLen.toNat)) := by
  cases i with
  | b32dec => simp [failsLen, secretTooLong_iff]
  | gen => simp [failsLen, secretTooLong_iff]
  | hmac => simp [failsLen, hmacTooLong_iff]
  | tstep | trunc | fmt | trem => simp [failsLen]

/-- Settles O40. -/
theorem lenRaisedExactly : Obligations.LenRaisedExactly := fun i s _ h =>
  (exec_err_eq_len_iff h).trans (failsLen_iff i s)

/-! ### The interrupt output -/

/-- Any completion raises DONE and keeps IE, so the output is IE (60_exceptions.md R184). -/
theorem irq_of_completion {s t : State} (h : completion s = .next t) : t.irq = s.ie := by
  obtain ⟨⟨hie, -⟩, -, hdone⟩ := completion_keeps_hostSide h
  rw [State.irq, hdone, Bool.true_and, hie]

/-- With DONE at 0 the output is low. -/
theorem irq_of_done_eq_false {s : State} (h : s.done = false) : s.irq = false := by
  rw [State.irq, h, Bool.false_and]

/-- Settles O48: each write at its own offset, by what it leaves in DONE and IE. -/
theorem interruptLevel : Obligations.InterruptLevel := by
  intro s t v
  have hctrl : memWrite s 0x004 4 v = ({ s with ie := v.getLsbD 0 }, .writeOk) :=
    memWrite_of_registerAt s v (r := .ctrl) rfl rfl
  have hstatus : memWrite s 0x008 4 v = (s.clearStatus v, .writeOk) :=
    memWrite_of_registerAt s v (r := .status) rfl rfl
  refine ⟨rfl, fun hb h => irq_of_completion (completion_of_engineTurn hb h), fun hv => ?status, ?ctrl, ?ctrl_done,
    fun idle => ?cmd, rfl⟩
  case status =>
    rw [hstatus]
    exact irq_of_done_eq_false (by rw [State.clearStatus_done, hv, Bool.not_true, Bool.and_false])
  case ctrl =>
    rw [hctrl]
    rfl
  case ctrl_done => rw [hctrl]
  case cmd =>
    rw [memWrite_of_registerAt s v (r := .cmd) rfl rfl, writeRegister_cmd_idle v idle]
    exact irq_of_done_eq_false (s.accept_done v)

/-! ### No step stops -/

/-- Every event leads to a next state: a transaction and a reset at once, the engine's turn by a completion or idle. -/
theorem exists_occur_eq_next (s : State) (e : Event) : ∃ t, occur s e = .next t := by
  cases e with
  | bus b => exact ⟨_, rfl⟩
  | reset => exact ⟨_, rfl⟩
  | engine =>
    cases hb : s.busy with
    | false => exact ⟨s, engineTurn_of_idle hb⟩
    | true =>
      obtain ⟨t, ht⟩ := exists_completion_eq_next s
      exact ⟨t, (if_pos hb).trans ht⟩

/-- Settles O7: a step is an event, listed or the engine's turn. -/
theorem stepAlwaysGoesOn : Obligations.StepAlwaysGoesOn := by
  intro s
  cases he : s.events with
  | nil => exact step_of_nil he ▸ exists_occur_eq_next s .engine
  | cons e es => exact step_of_cons he ▸ exists_occur_eq_next s.popped e

/-! ### Transactions that are not admitted -/

section
variable {off : Offset} {size : Nat} (h : size ≠ 4 ∨ off.toNat % 4 ≠ 0)
include h

/-- Another size or a misaligned offset is not admitted (20_memory.md R54). -/
theorem admitted_eq_false : admitted off size = false := by
  simpa [admitted, imp_iff_not_or] using h

/-- A read that is not admitted (60_exceptions.md R181). -/
theorem memRead_of_not_admitted (s : State) : memRead s off size = .readError 0 := by
  simp [memRead, admitted_eq_false h]

/-- A write that is not admitted (60_exceptions.md R181). -/
theorem memWrite_of_not_admitted (s : State) (v : Word) : memWrite s off size v = (s, .writeError) := by
  simp [memWrite, admitted_eq_false h]

end

/-- Settles O43: only the response changes, so DONE, IE and the output they drive stay. -/
theorem notAdmittedIsBusError : Obligations.NotAdmittedIsBusError := by
  intro s off size v h
  have hread : transact s (.read off size) = { s with response := some (.readError 0) } := by
    rw [transact, memRead_of_not_admitted h]
  have hwrite : transact s (.write off size v) = { s with response := some .writeError } := by
    rw [transact, memWrite_of_not_admitted h]
  exact ⟨hread, hwrite, hread ▸ rfl, hwrite ▸ rfl⟩

end Sys2Proof.Machine
end

section
/-! SUPPORT. Reset as a step, and a GEN issued straight after it (70_reset_and_hazards.md R200 to R202,
45_generate.md R162). -/

namespace Sys2Proof.Machine

/-- Settles O9: the listed event is the reset, which looks at nothing of the state but the events that outlive it. -/
theorem resetTakesEverything : Obligations.ResetTakesEverything := by
  intro s es he
  rw [step_of_cons he, State.popped_of_cons he]
  rfl

/-! ### GEN straight after reset -/

/-- A fetched command word stands for its accepted CMD write and the completion after it (notes/assumptions/4.md). -/
theorem step_withFetchWord (s : State) (nbits w : Nat) {i : Instr}
    (hi : decode (BitVec.ofNat 32 (w % 2 ^ nbits)) = .ok i) :
    step (s.withFetchWord nbits w) = exec i (s.accept (BitVec.ofNat 32 (w % 2 ^ nbits))) :=
  (stepRunsDecodedCommand (s.withFetchWord nbits w) i s.events rfl hi).1 rfl

/-- With SECRET_LEN = 0 GEN succeeds, with the empty secret (45_generate.md R162). -/
theorem exec_gen_of_secretLen_zero {s : State} (h : s.secretLen = 0) :
    exec .gen s = .next (commit (s.putGenerated [] (timeOperand s))) := by
  have hsecret : secretOperand s = [] := by rw [secretOperand, h]; rfl
  have hfits : s.secretLen.toNat ≤ 128 := by rw [h]; decide
  rw [exec_of_ok (failsLen_gen.2 hfits), results_gen, hsecret]

/-- BIN of the empty secret at time 0, the value in the trace of program P6. -/
theorem truncated_hmacSha1_empty_at_zero :
    truncated (hmacSha1 (b32decode []) (be64bytes (timeStep 0))) = 0x4F977EE2 := by
  decide +kernel

/-- The code of the empty secret at time 0 (45_generate.md R162). -/
theorem reduceCode_empty_at_zero :
    reduceCode (truncated (hmacSha1 (b32decode []) (be64bytes (timeStep 0)))).toNat = 328482 := by
  rw [truncated_hmacSha1_empty_at_zero]
  rfl

/-- Settles O11: after reset SECRET_LEN and TIME are 0, so GEN commits the code of the empty secret at time 0. -/
theorem genAfterReset : Obligations.GenAfterReset := by
  have hstep : step (State.reset.withFetchWord 32 0x00000006)
      = .next (commit ((State.reset.accept 0x00000006).putGenerated [] 0)) :=
    (step_withFetchWord State.reset 32 0x00000006 (decode_encode .gen)).trans (exec_gen_of_secretLen_zero rfl)
  refine ⟨_, hstep, completedWith_commit _, ?keyLen, ?codeNum, ?code0, ?code1, ?trem⟩
  case keyLen =>
    rw [commit, State.complete_keyLen, State.putGenerated_keyLen]
    rfl
  case codeNum =>
    rw [commit, State.complete_codeNum, State.putGenerated_codeNum, reduceCode_empty_at_zero]
    rfl
  case code0 =>
    rw [commit, State.complete_code0, State.putGenerated_code0, reduceCode_empty_at_zero]
    rfl
  case code1 =>
    rw [commit, State.complete_code1, State.putGenerated_code1, reduceCode_empty_at_zero]
    rfl
  case trem =>
    rw [commit, State.complete_trem, State.putGenerated_trem]
    rfl

end Sys2Proof.Machine
end
